-- ==== Sys2Proof/Word.lean ====
section
/-! DEFINITION. The words of the block: bytes, 16-bit values, select codes, and the request word of the
request port (spec/00_scope.md R10; spec/10_state.md R33). Every value is unsigned (R10): no signed reading exists. -/

namespace Sys2Proof

/-- A byte, `u8` (R10). Channel numbers, subroutine numbers and every element of a frame are bytes. -/
abbrev Byte := BitVec 8

/-- A 16-bit unsigned value, `u16` (R10): targets, speeds, accelerations, limits, positions. -/
abbrev U16 := BitVec 16

/-- An operation select code, the 4-bit field `req.op` (R33, R34). -/
abbrev OpCode := BitVec 4

/-- One request as the request port carries it: `req.op`, `req.chan`, `req.a`, `req.b` (R33). -/
structure Request where
  op   : OpCode
  chan : Byte
  a    : U16
  b    : U16
  deriving DecidableEq, Repr

end Sys2Proof
end

