-- ==== Sys2Proof/Config.lean ====
section
/-! DEFINITION. What the machine's implementation fixes, and the values the spec leaves open as constants
without a body (spec/00_scope.md R7 to R9; spec/93_implementation_defined.md U1, U6, U7, U10, U11). -/

namespace Sys2Proof

/-- The number of channels, `NCH = 24` (R7). -/
abbrev NCH : Nat := 24

/-- The addressing mode register's two values (R22). -/
inductive AddrMode where
  | addressed
  | pointToPoint
  deriving DecidableEq, Repr, Inhabited

/-- The Transport's answer to one `TxWrite` (R57, R58). -/
inductive WriteAnswer where
  /-- The whole frame was sent (R57). -/
  | ok
  /-- An I/O failure, with the number of bytes of the frame that had reached the wire (R58: some prefix, from
  none to all; a number beyond the frame's length means all of it). -/
  | ioFail (sent : Nat)
  deriving DecidableEq, Repr

/-- The Transport's answer to one `RxRead(n)` (R60): `Ok`, `Short(k)` or `IoFail`. The bytes themselves are the
front of the receive stream. -/
inductive ReadAnswer where
  /-- The read completes as soon as `n` bytes are in the stream (R59). -/
  | ok
  /-- The deadline passed with `received` bytes available; `taken` of them are gone from the stream (R61). -/
  | short (received taken : Nat)
  /-- An I/O failure that is no deadline expiry; `taken` bytes are gone from the stream (R62). -/
  | ioFail (taken : Nat)
  deriving DecidableEq, Repr

/-- The device address used when construction is given none: 12 decimal (R21, R42). -/
def defaultDevAddr : Byte := 0x0C

/-- `ADDR_MODE`'s construction-time argument, for which the spec gives no default (R9, R22, U10): open. -/
opaque Config.addrMode : AddrMode

/-- The result of the clamp on an inverted range (R153, U1): open, and dependent on `lo`, `hi` and `v` alone. -/
opaque Config.clampInverted : U16 → U16 → U16 → U16

/-- `READ_DEADLINE` (R9, U11): the Transport's own, `none` where it applies no deadline. No operation reads it. -/
opaque Config.readDeadline : Option Nat

/-- What the receive stream holds when the block is constructed (R42, U7): unspecified. -/
opaque Config.rxStreamAtReset : List Byte

/-- The Transport's answers to the block's writes after construction (U5): the environment's choice. -/
opaque Config.writeAnswersAtReset : List WriteAnswer

/-- The Transport's answers to the block's reads after construction (U6): the environment's choice. -/
opaque Config.readAnswersAtReset : List ReadAnswer

end Sys2Proof
end

