-- ==== Sys2Proof/Syntax.lean ====
section
/-! DEFINITION. The instructions: one constructor per row of spec/opcode_table.json, on its three levels. The nine
host operations and the seven reserved select codes arrive on the request port (spec/10_state.md R34); the seven
wire commands are the frames the block sends (spec/30_encoding.md R95); the two responses are what it reads back
(R81, R87, R88). -/

namespace Sys2Proof

inductive Instr where
  -- Wire commands (R95, R120 to R126).
  | wireSetTarget (channel : Byte) (target : U16)
  | wireSetSpeed (channel : Byte) (speed : U16)
  | wireSetAcceleration (channel : Byte) (accel : U16)
  | wireGetPosition (channel : Byte)
  | wireGetMovingState
  | wireRunScriptSubroutine (n : Byte)
  | wireStopScript
  -- Responses (R87, R88, R140, R141); `lsb` is the first byte received.
  | positionResponse (lsb msb : Byte)
  | movingStateResponse (state : Byte)
  -- Host operations (R34, R150 to R165).
  | setRange (channel : Byte) (min max : U16)
  | setTarget (channel : Byte) (target : U16)
  | setSpeed (channel : Byte) (speed : U16)
  | setAccel (channel : Byte) (accel : U16)
  | getPosition (channel : Byte)
  | isMoving (channel : Byte)
  | getMovingState
  | runScriptSubroutine (n : Byte)
  | stopScript
  -- Reserved operation select codes (R34, R101, R166).
  | reserved9
  | reservedA
  | reservedB
  | reservedC
  | reservedD
  | reservedE
  | reservedF
  deriving DecidableEq, Repr

end Sys2Proof
end

