-- ==== Sys2Proof/WellFormed.lean ====
section
/-! DEFINITION. Well-formed instructions: those whose encoding carries every operand whole. Only a `B4` wire command
can fail: `value[15:14]` is not transmitted (spec/30_encoding.md R86, R90), so two values that differ there have one
encoding. Channel numbers above 23 are well-formed: the port and the codec carry all 8 bits (R33, R94), and the
operations answer them with an error. -/

namespace Sys2Proof

/-- The value fits the 14 bits a `B4` body carries (R86). -/
def fits14 (v : U16) : Bool := decide (v.toNat < 16384)

/-- An instruction is well-formed when its encoding carries every operand whole. -/
def Instr.wf : Instr → Bool
  | .wireSetTarget _ v => fits14 v
  | .wireSetSpeed _ v => fits14 v
  | .wireSetAcceleration _ v => fits14 v
  | .wireGetPosition _ => true
  | .wireGetMovingState => true
  | .wireRunScriptSubroutine _ => true
  | .wireStopScript => true
  | .positionResponse _ _ => true
  | .movingStateResponse _ => true
  | .setRange _ _ _ => true
  | .setTarget _ _ => true
  | .setSpeed _ _ => true
  | .setAccel _ _ => true
  | .getPosition _ => true
  | .isMoving _ => true
  | .getMovingState => true
  | .runScriptSubroutine _ => true
  | .stopScript => true
  | .reserved9 => true
  | .reservedA => true
  | .reservedB => true
  | .reservedC => true
  | .reservedD => true
  | .reservedE => true
  | .reservedF => true

end Sys2Proof
end

