-- ==== Sys2Proof/Decode.lean ====
section
/-! DEFINITION. FrameCodec, and the decoder and encoder of the instructions.

FrameCodec (spec/40_framecodec_encode.md, spec/41_framecodec_decode.md): the opcode table, the 7/7 split, the seven
body encoders, the header, the two response parsers. All are pure and total (R128, R142).

The decoder reads a packet, the bits of one instruction on the level it belongs to: a request word (R33, R34), a
command body (R80, R98) or a response (R81). It answers every packet, with an instruction or with the name of what is
wrong. The encoder writes the packet of an instruction from the same tables. -/

namespace Sys2Proof

/-! ## The opcode table (R95) -/

def opcSetTarget : Byte := 0x04
def opcSetSpeed : Byte := 0x07
def opcSetAcceleration : Byte := 0x09
def opcGetPosition : Byte := 0x10
def opcGetMovingState : Byte := 0x13
def opcRunScriptSubroutine : Byte := 0x27
def opcStopScript : Byte := 0x24

/-! ## Encoders (R120 to R130) -/

/-- `Split7` (R89, R129): the low seven bits and the next seven bits of a value, each in a byte whose bit 7 is 0. -/
def split7 (v : U16) : Byte × Byte :=
  ((v &&& 0x7F).setWidth 8, ((v >>> 7) &&& 0x7F).setWidth 8)

/-- Format `B4` (R86): `[opcode, channel, lsb, msb]`. -/
def bodyB4 (opcode channel : Byte) (value : U16) : List Byte :=
  [opcode, channel, (split7 value).1, (split7 value).2]

/-- Format `B2` (R85): `[opcode, arg]`. -/
def bodyB2 (opcode arg : Byte) : List Byte := [opcode, arg]

/-- Format `B1` (R83): `[opcode]`. -/
def bodyB1 (opcode : Byte) : List Byte := [opcode]

/-- `ENC_SetTarget` (R120). -/
def encSetTarget (channel : Byte) (target : U16) : List Byte := bodyB4 opcSetTarget channel target

/-- `ENC_SetSpeed` (R121). -/
def encSetSpeed (channel : Byte) (speed : U16) : List Byte := bodyB4 opcSetSpeed channel speed

/-- `ENC_SetAcceleration` (R122). -/
def encSetAcceleration (channel : Byte) (accel : U16) : List Byte := bodyB4 opcSetAcceleration channel accel

/-- `ENC_GetPosition` (R123). -/
def encGetPosition (channel : Byte) : List Byte := bodyB2 opcGetPosition channel

/-- `ENC_GetMovingState` (R124). -/
def encGetMovingState : List Byte := bodyB1 opcGetMovingState

/-- `ENC_RunScriptSubroutine` (R125). -/
def encRunScriptSubroutine (n : Byte) : List Byte := bodyB2 opcRunScriptSubroutine n

/-- `ENC_StopScript` (R126). -/
def encStopScript : List Byte := bodyB1 opcStopScript

/-- The first byte of the header (R84). -/
def headerByte : Byte := 0xAA

/-- `Header()` (R84, R127). -/
def header (mode : AddrMode) (devAddr : Byte) : List Byte :=
  match mode with
  | .addressed => [headerByte, devAddr]
  | .pointToPoint => []

/-- `Frame(body)` (R127). -/
def frame (mode : AddrMode) (devAddr : Byte) (body : List Byte) : List Byte :=
  header mode devAddr ++ body

/-! ## Response parsers (R140 to R143) -/

/-- `DEC_Position` (R92, R140): the 8/8 combination, `b0` the first byte received. -/
def decPosition (b0 b1 : Byte) : U16 := (b1.setWidth 16 <<< 8) ||| b0.setWidth 16

/-- `DEC_MovingState` (R88, R141). -/
def decMovingState (b0 : Byte) : Bool := b0 != 0

/-! ## Packets -/

/-- The bits of one instruction, on the level it belongs to. -/
inductive Packet where
  /-- A request word, from the request port (R33). -/
  | request (r : Request)
  /-- The body of a command frame, without its header (R80). -/
  | body (bytes : List Byte)
  /-- The bytes of a response (R81). -/
  | response (bytes : List Byte)
  deriving DecidableEq, Repr

/-- Why bytes are no packet the block sends or reads (R98: "something the block never produces"). -/
inductive DecodeError where
  /-- An addressed frame whose first byte is not `0xAA`. -/
  | badHeader (found : Byte)
  /-- An opcode that R95 does not list. -/
  | unknownOpcode (found : Byte)
  /-- The bytes end inside a frame. -/
  | missingByte
  /-- A `B4` data byte whose bit 7 is set. -/
  | highBitSet
  /-- Bytes follow a complete body. -/
  | trailingBytes
  /-- A response that is neither one byte nor two bytes long. -/
  | responseLength (found : Nat)
  deriving DecidableEq, Repr

/-! ## The decoder -/

/-- The operation of a request (R34). Fields an operation does not name are ignored (R33). -/
def decodeRequest (r : Request) : Instr :=
  if r.op = 0x0 then .setRange r.chan r.a r.b
  else if r.op = 0x1 then .setTarget r.chan r.a
  else if r.op = 0x2 then .setSpeed r.chan r.a
  else if r.op = 0x3 then .setAccel r.chan r.a
  else if r.op = 0x4 then .getPosition r.chan
  else if r.op = 0x5 then .isMoving r.chan
  else if r.op = 0x6 then .getMovingState
  else if r.op = 0x7 then .runScriptSubroutine r.chan
  else if r.op = 0x8 then .stopScript
  else if r.op = 0x9 then .reserved9
  else if r.op = 0xA then .reservedA
  else if r.op = 0xB then .reservedB
  else if r.op = 0xC then .reservedC
  else if r.op = 0xD then .reservedD
  else if r.op = 0xE then .reservedE
  else .reservedF

/-- The value whose 7/7 split is `(lsb, msb)` (R98): `(msb << 7) | lsb`. -/
def join7 (lsb msb : Byte) : U16 := (msb.setWidth 16 <<< 7) ||| lsb.setWidth 16

/-- The payload of a `B4` body (R86, R98). -/
def decodeB4 (make : Byte → U16 → Instr) : List Byte → Except DecodeError (Instr × List Byte)
  | channel :: lsb :: msb :: rest =>
    if lsb.msb || msb.msb then .error .highBitSet else .ok (make channel (join7 lsb msb), rest)
  | _ => .error .missingByte

/-- The payload of a `B2` body (R85, R98). -/
def decodeB2 (make : Byte → Instr) : List Byte → Except DecodeError (Instr × List Byte)
  | arg :: rest => .ok (make arg, rest)
  | [] => .error .missingByte

/-- The command at the front of some bytes, and the bytes after it (R98, without the header). -/
def decodeBody : List Byte → Except DecodeError (Instr × List Byte)
  | [] => .error .missingByte
  | opcode :: rest =>
    if opcode = opcSetTarget then decodeB4 .wireSetTarget rest
    else if opcode = opcSetSpeed then decodeB4 .wireSetSpeed rest
    else if opcode = opcSetAcceleration then decodeB4 .wireSetAcceleration rest
    else if opcode = opcGetPosition then decodeB2 .wireGetPosition rest
    else if opcode = opcGetMovingState then .ok (.wireGetMovingState, rest)
    else if opcode = opcRunScriptSubroutine then decodeB2 .wireRunScriptSubroutine rest
    else if opcode = opcStopScript then .ok (.wireStopScript, rest)
    else .error (.unknownOpcode opcode)

/-- A response carries no opcode; its length alone tells the two formats apart (R81, R97). -/
def decodeResponse : List Byte → Except DecodeError Instr
  | [lsb, msb] => .ok (.positionResponse lsb msb)
  | [state] => .ok (.movingStateResponse state)
  | bytes => .error (.responseLength bytes.length)

/-- The instruction a packet stands for, or the name of what is wrong with it. -/
def decode : Packet → Except DecodeError Instr
  | .request r => .ok (decodeRequest r)
  | .body bytes =>
    match decodeBody bytes with
    | .ok (i, []) => .ok i
    | .ok (_, _ :: _) => .error .trailingBytes
    | .error e => .error e
  | .response bytes => decodeResponse bytes

/-- The parser of command frames of R98: the device address (where the mode has one), the command, the rest. -/
def decodeFrame (mode : AddrMode) (bytes : List Byte) : Except DecodeError (Option Byte × Instr × List Byte) :=
  match mode, bytes with
  | .pointToPoint, bytes =>
    match decodeBody bytes with
    | .ok (i, rest) => .ok (none, i, rest)
    | .error e => .error e
  | .addressed, h :: d :: bytes =>
    if h = headerByte then
      match decodeBody bytes with
      | .ok (i, rest) => .ok (some d, i, rest)
      | .error e => .error e
    else .error (.badHeader h)
  | .addressed, _ => .error .missingByte

/-- All the commands of a byte sequence that is whole frames, one after another (R67: frames are not padded). The
first argument bounds how many frames are read. -/
def decodeFrames (mode : AddrMode) : Nat → List Byte → Except DecodeError (List Instr)
  | _, [] => .ok []
  | 0, _ :: _ => .error .trailingBytes
  | k + 1, b :: bytes =>
    match decodeFrame mode (b :: bytes) with
    | .error e => .error e
    | .ok (_, i, rest) =>
      match decodeFrames mode k rest with
      | .ok is => .ok (i :: is)
      | .error e => .error e

/-! ## The encoder -/

/-- The packet of an instruction. Request fields an operation does not name are written 0. -/
def encode : Instr → Packet
  | .wireSetTarget ch v => .body (encSetTarget ch v)
  | .wireSetSpeed ch v => .body (encSetSpeed ch v)
  | .wireSetAcceleration ch v => .body (encSetAcceleration ch v)
  | .wireGetPosition ch => .body (encGetPosition ch)
  | .wireGetMovingState => .body encGetMovingState
  | .wireRunScriptSubroutine n => .body (encRunScriptSubroutine n)
  | .wireStopScript => .body encStopScript
  | .positionResponse lsb msb => .response [lsb, msb]
  | .movingStateResponse state => .response [state]
  | .setRange ch min max => .request { op := 0x0, chan := ch, a := min, b := max }
  | .setTarget ch v => .request { op := 0x1, chan := ch, a := v, b := 0 }
  | .setSpeed ch v => .request { op := 0x2, chan := ch, a := v, b := 0 }
  | .setAccel ch v => .request { op := 0x3, chan := ch, a := v, b := 0 }
  | .getPosition ch => .request { op := 0x4, chan := ch, a := 0, b := 0 }
  | .isMoving ch => .request { op := 0x5, chan := ch, a := 0, b := 0 }
  | .getMovingState => .request { op := 0x6, chan := 0, a := 0, b := 0 }
  | .runScriptSubroutine n => .request { op := 0x7, chan := n, a := 0, b := 0 }
  | .stopScript => .request { op := 0x8, chan := 0, a := 0, b := 0 }
  | .reserved9 => .request { op := 0x9, chan := 0, a := 0, b := 0 }
  | .reservedA => .request { op := 0xA, chan := 0, a := 0, b := 0 }
  | .reservedB => .request { op := 0xB, chan := 0, a := 0, b := 0 }
  | .reservedC => .request { op := 0xC, chan := 0, a := 0, b := 0 }
  | .reservedD => .request { op := 0xD, chan := 0, a := 0, b := 0 }
  | .reservedE => .request { op := 0xE, chan := 0, a := 0, b := 0 }
  | .reservedF => .request { op := 0xF, chan := 0, a := 0, b := 0 }

/-! ## Words numbered as spec/opcode_table.json numbers them -/

/-- The first `n` bytes of a number, least significant byte first. -/
def bytesOfWord : Nat → Nat → List Byte
  | 0, _ => []
  | n + 1, w => BitVec.ofNat 8 w :: bytesOfWord n (w / 256)

/-- A request word as one number: `req.op` in bits [3:0], `req.chan` in [11:4], `req.a` in [27:12], `req.b` in
[43:28]. DESIGN CHOICE (log 9), unsafe: the spec gives the fields and their widths (R33), not their places in a word. -/
def requestOfWord (w : Nat) : Request where
  op := BitVec.ofNat 4 w
  chan := BitVec.ofNat 8 (w / 16)
  a := BitVec.ofNat 16 (w / 4096)
  b := BitVec.ofNat 16 (w / 268435456)

/-- The instruction read from a word numbered as the opcode table numbers it. The table's rows stand on three levels
whose words overlap (0x04 is both the select code of `getPosition` and the opcode of SetTarget), so a word is tried as
a request, then as a command body, then as a response. DESIGN CHOICE (log 10), safe: `step` never calls this. -/
def decodeTableWord (nbits w : Nat) : Option Instr :=
  if 32 < nbits || (nbits ≤ 8 && w < 16) then some (decodeRequest (requestOfWord w))
  else
    match decodeBody (bytesOfWord 4 w) with
    | .ok (i, _) => some i
    | .error _ =>
      match decodeResponse (bytesOfWord (nbits / 8) w) with
      | .ok i => some i
      | .error _ => none

end Sys2Proof
end

