-- ==== Sys2Proof/Machine/State.lean ====
section
/-! DEFINITION. The machine's state (spec/10_state.md R20), the results its operations end with (R35, R36;
spec/60_exceptions.md R180), why a step can stop, and the machine after reset (R42; spec/70_reset_and_hazards.md
R210). -/

namespace Sys2Proof.Machine

/-- One register-file entry, a ChannelState (R24). -/
structure ChannelState where
  /-- The last commanded position; 0 means "never commanded" (R26). -/
  target   : U16
  /-- The lower soft limit; 0 means no limit configured (R25). -/
  minLimit : U16
  /-- The upper soft limit; 0 means no limit configured (R25). -/
  maxLimit : U16
  deriving DecidableEq, Repr

/-- An accepted operation whose frame has been handed to the Transport, with the values it has computed so far. The
channel has passed `CheckChannel`. -/
inductive InFlight where
  /-- `target` is the clamped value, all 16 bits of it (R152). -/
  | setTarget (channel : Fin NCH) (target : U16)
  | setSpeed (channel : Fin NCH) (speed : U16)
  | setAccel (channel : Fin NCH) (accel : U16)
  | getPosition (channel : Fin NCH)
  /-- `target` is the stored target that was read before the write (R160). -/
  | isMoving (channel : Fin NCH) (target : U16)
  | getMovingState
  | runScriptSubroutine (n : Byte)
  | stopScript
  deriving DecidableEq, Repr

/-- An operation whose frame was written and which waits for its response (R30). -/
inductive Query where
  | position
  /-- `isMoving`, with the stored target the position is compared with (R160). -/
  | isMoving (target : U16)
  | movingState
  deriving DecidableEq, Repr

/-- The sequencer phase (R30): `IDLE`, `TX`, `RX`, each with what the operation in flight needs to go on. -/
inductive Phase where
  | idle
  | tx (op : InFlight)
  | rx (query : Query)
  deriving DecidableEq, Repr

/-- The typed errors an operation can end with (R180), with the value recorded. -/
inductive OpError where
  | transport
  | shortRead
  | invalidChannel (channel : Byte)
  | illegalOperation (code : OpCode)
  deriving DecidableEq, Repr

/-- What the result port carries (R35): the data only where it has a meaning. -/
inductive Result where
  /-- Status OK with no data. -/
  | ok
  /-- Status OK with a position. -/
  | position (p : U16)
  /-- Status OK with a Boolean. -/
  | bool (b : Bool)
  | error (e : OpError)
  deriving DecidableEq, Repr

/-- The environment's side of the two byte streams (R38, R56 to R63). -/
structure Transport where
  /-- `rx_stream`: the bytes the Transport will deliver, in arrival order (R38). -/
  rxStream     : List Byte
  /-- The answers to the writes to come, in order; a write that has none waits. -/
  writeAnswers : List WriteAnswer
  /-- The answers to the reads to come, in order; a read that has none waits. -/
  readAnswers  : List ReadAnswer
  /-- Whether the owner has closed the Transport (R222). -/
  closed       : Bool
  deriving DecidableEq, Repr

/-- The construction-time arguments sampled at reset (R8, R42, R212). -/
structure ResetArgs where
  /-- The device address; `none` takes the default (R21). -/
  devAddr   : Option Byte
  /-- The addressing mode, which has no default (R22). -/
  addrMode  : AddrMode
  /-- A freshly opened Transport, where the connection is reopened (R196, R227); `none` keeps the present one. -/
  transport : Option Transport
  deriving DecidableEq, Repr

/-- What the block's owner, not the host at the request port, can do to it. -/
inductive OwnerAction where
  /-- Reset, which is construction (R210). -/
  | reset (args : ResetArgs)
  /-- Closing the Transport (R222). -/
  | close
  deriving DecidableEq, Repr

/-- The state of the block, and of its environment as far as a claim needs it (R20). -/
structure State where
  /-- `DEVADDR` (R21). -/
  devAddr   : Byte
  /-- `ADDR_MODE` (R22). -/
  addrMode  : AddrMode
  /-- The register file (R24). -/
  rf        : Vector ChannelState NCH
  /-- `phase` (R30). -/
  phase     : Phase
  /-- `tx_trace`: the bytes handed to the Transport since reset (R37). -/
  txTrace   : List Byte
  /-- The Transport, which holds `rx_stream` (R38). -/
  transport : Transport
  /-- The ghost flag `rx_sync` (R39). -/
  rxSync    : Bool
  /-- The requests the host presents on the request port, the first one first (R33). -/
  requests  : List Request
  /-- The results the result port has carried since reset, in order (R35). -/
  results   : List Result
  /-- What the owner does before the next operation step, if anything (R210, R222). -/
  owner     : Option OwnerAction
  deriving DecidableEq, Repr

/-- Why the machine stops with a fault. The spec names none: every error of R180 is the result of its operation, after
which the block goes on (R190, R194). -/
inductive Fault where
  /-- Raised by `step` when the packet it fetched is one the decoder rejects. Safe: it stops where the spec gives no
  behaviour, and no state has such a packet, since the block sends only frames R95 lists (R99, R127) and reads
  responses whose length it fixed (R97). -/
  | undecodable (why : DecodeError)
  deriving DecidableEq, Repr

/-- Why the machine refuses to go on. -/
inductive Refusal where
  /-- Raised by an arm of `exec` whose instruction has no meaning yet. Safe. No arm raises it. -/
  | notModelled (mnemonic : String)
  /-- Raised by `step` when the owner resets while an operation is in flight (R213, U8: "accepts reset only when
  `phase == IDLE` and refuses it otherwise"). Safe: it stops where the spec gives no meaning. -/
  | resetInFlight
  deriving DecidableEq, Repr

/-- The block as construction leaves it (R42, R210): every register-file field 0, `phase` IDLE, nothing written,
`rx_sync` true, the configuration as the arguments say. Requests the host still presents are the host's and stay. -/
def State.construct (args : ResetArgs) (present : Transport) (requests : List Request) : State where
  devAddr := args.devAddr.getD defaultDevAddr
  addrMode := args.addrMode
  rf := Vector.replicate NCH { target := 0, minLimit := 0, maxLimit := 0 }
  phase := .idle
  txTrace := []
  transport := args.transport.getD present
  rxSync := true
  requests := requests
  results := []
  owner := none

/-- The machine right after reset: constructed with no device address given, so the default 12 (R42), in the
addressing mode that is left open (U10), before a Transport whose streams and answers are left open (U5, U6, U7), with
no request presented. -/
def State.reset : State :=
  State.construct { devAddr := none, addrMode := Config.addrMode, transport := none }
    { rxStream := Config.rxStreamAtReset
      writeAnswers := Config.writeAnswersAtReset
      readAnswers := Config.readAnswersAtReset
      closed := false }
    []

end Sys2Proof.Machine
end

