-- ==== Sys2Proof/Machine/Operands.lean ====
section
/-! DEFINITION. The operand forms: the channel operand, the clamped target, the register-file fields (the one
addressing mode is direct, spec/42_channel_controller.md R169), and what an operation in flight sends and reads. -/

namespace Sys2Proof.Machine

/-- `CheckChannel` (R151): the register-file index of a channel operand, or `none` when it is above 23. -/
def checkChannel (channel : Byte) : Option (Fin NCH) :=
  if h : channel.toNat < NCH then some ⟨channel.toNat, h⟩ else none

/-- A checked channel as the byte a frame carries (R94). -/
def channelByte (c : Fin NCH) : Byte := BitVec.ofNat 8 c.val

/-- `Clamp` (R154), with the inverted range left open (R153). All comparisons are unsigned. -/
def clamp (lo hi v : U16) : U16 :=
  if lo ≠ 0 ∧ hi ≠ 0 ∧ hi < lo then Config.clampInverted lo hi v
  else
    let t := if lo ≠ 0 ∧ v < lo then lo else v
    if hi ≠ 0 ∧ hi < t then hi else t

/-! ## Register-file access (R51, R52) -/

/-- Register-file entry `c`. -/
def State.entry (s : State) (c : Fin NCH) : ChannelState := s.rf[c.val]

/-- `RF.target[c] <- v`. -/
def State.writeTarget (c : Fin NCH) (v : U16) (s : State) : State :=
  { s with rf := s.rf.set c.val { s.entry c with target := v } }

/-- `RF.minLimit[c] <- min; RF.maxLimit[c] <- max`. -/
def State.writeLimits (c : Fin NCH) (min max : U16) (s : State) : State :=
  { s with rf := s.rf.set c.val { s.entry c with minLimit := min, maxLimit := max } }

/-- The value `setTarget` sends and stores for channel `c` (R152). -/
def State.clampedTarget (s : State) (c : Fin NCH) (v : U16) : U16 :=
  clamp (s.entry c).minLimit (s.entry c).maxLimit v

/-! ## Operations in flight -/

/-- The body of the frame an operation sends (R152 to R165; `isMoving` sends a GetPosition, R103). -/
def InFlight.body : InFlight → List Byte
  | .setTarget c t => encSetTarget (channelByte c) t
  | .setSpeed c v => encSetSpeed (channelByte c) v
  | .setAccel c v => encSetAcceleration (channelByte c) v
  | .getPosition c => encGetPosition (channelByte c)
  | .isMoving c _ => encGetPosition (channelByte c)
  | .getMovingState => encGetMovingState
  | .runScriptSubroutine n => encRunScriptSubroutine n
  | .stopScript => encStopScript

/-- The number of response bytes a query reads (R59). -/
def Query.size : Query → Nat
  | .position => 2
  | .isMoving _ => 2
  | .movingState => 1

/-- The result of a query whose response is `bytes`, of which there are exactly `size` (R142, R158, R160, R162). -/
def Query.result (q : Query) (bytes : List Byte) : Result :=
  match q with
  | .position => .position (decPosition (bytes.getD 0 0) (bytes.getD 1 0))
  | .isMoving t => .bool (decPosition (bytes.getD 0 0) (bytes.getD 1 0) != t)
  | .movingState => .bool (decMovingState (bytes.getD 0 0))

end Sys2Proof.Machine
end

