-- ==== Sys2Proof/Machine/Ops.lean ====
section
/-! DEFINITION. The operations all meanings share: ending an operation with a result or an error, the two Transport
primitives, the TX and RX phases, accepting a request, reset and close, and fetching the next packet. -/

namespace Sys2Proof.Machine

/-! ## Ending an operation -/

/-- An operation ends: its result appears on the result port and the sequencer is `IDLE` again (R31, R35). -/
def finish (r : Result) (s : State) : State :=
  { s with phase := .idle, results := s.results ++ [r] }

/-- Raising an error (R15, R190): the operation stops here, the result port delivers the error, `phase` is `IDLE`,
and nothing is saved anywhere. There is no handler, so the return from an error is the next request (R194). -/
def raise (e : OpError) (s : State) : State := finish (.error e) s

/-! ## Transport primitives -/

/-- The Transport's answer to the write in progress, if it has given one. A closed Transport answers every write with
an I/O failure. DESIGN CHOICE (log 6), unsafe: one of the two treatments R222 offers. -/
def State.writeAnswer (s : State) : Option WriteAnswer :=
  if s.transport.closed then some (.ioFail 0) else s.transport.writeAnswers.head?

/-- The Transport's answer to the read in progress, if it has given one (closed as for a write). -/
def State.readAnswer (s : State) : Option ReadAnswer :=
  if s.transport.closed then some (.ioFail 0) else s.transport.readAnswers.head?

/-- How a `TxWrite` ends, if it does. -/
inductive WriteOutcome where
  | waiting
  | sent (s : State)
  | failed (s : State)

/-- `TxWrite(bytes)` (R57, R58): the whole frame reaches the wire, or some first part of it does. -/
def txWrite (bytes : List Byte) (s : State) : WriteOutcome :=
  let answered : Transport := { s.transport with writeAnswers := s.transport.writeAnswers.tail }
  match s.writeAnswer with
  | none => .waiting
  | some .ok => .sent { s with txTrace := s.txTrace ++ bytes, transport := answered }
  | some (.ioFail n) => .failed { s with txTrace := s.txTrace ++ bytes.take n, transport := answered }

/-- How an `RxRead` ends, if it does. -/
inductive ReadOutcome where
  | waiting
  | got (bytes : List Byte) (s : State)
  | failed (e : OpError) (s : State)

/-- How many bytes a short read of `n` bytes takes from the stream (R61): `j` with `0 <= j <= k < n`. A Transport
answer that names numbers outside these bounds is read as the nearest ones inside. -/
def shortTaken (n received taken : Nat) : Nat := min taken (min received (n - 1))

/-- `RxRead(n)` (R59 to R63): exactly `n` bytes from the front of the stream, or a short read, or an I/O failure; both
failures clear the ghost flag. With too few bytes and no failure it blocks. -/
def rxRead (n : Nat) (s : State) : ReadOutcome :=
  let answers := s.transport.readAnswers.tail
  let rx := s.transport.rxStream
  match s.readAnswer with
  | none => .waiting
  | some .ok =>
    if n ≤ rx.length then
      .got (rx.take n) { s with transport := { s.transport with rxStream := rx.drop n, readAnswers := answers } }
    else .waiting
  | some (.short k j) =>
    .failed .shortRead { s with
      transport := { s.transport with rxStream := rx.drop (shortTaken n k j), readAnswers := answers }
      rxSync := false }
  | some (.ioFail j) =>
    .failed .transport { s with
      transport := { s.transport with rxStream := rx.drop j, readAnswers := answers }
      rxSync := false }

/-! ## The phases of an operation (R31) -/

/-- What an operation does once its frame is written: `setTarget` stores, a query goes on to read, the others end. -/
def afterWrite (op : InFlight) (s : State) : State :=
  match op with
  | .setTarget c t => finish .ok (s.writeTarget c t)
  | .setSpeed _ _ => finish .ok s
  | .setAccel _ _ => finish .ok s
  | .getPosition _ => { s with phase := .rx .position }
  | .isMoving _ t => { s with phase := .rx (.isMoving t) }
  | .getMovingState => { s with phase := .rx .movingState }
  | .runScriptSubroutine _ => finish .ok s
  | .stopScript => finish .ok s

/-- The TX phase: hand the frame in flight to the Transport and go on when it answers. -/
def transmit (s : State) : State :=
  match s.phase with
  | .tx op =>
    match txWrite (frame s.addrMode s.devAddr op.body) s with
    | .waiting => s
    | .sent s' => afterWrite op s'
    | .failed s' => raise .transport s'
  | .idle => s
  | .rx _ => s

/-- The RX phase: read the response in flight and end the operation when the Transport answers. -/
def receive (s : State) : State :=
  match s.phase with
  | .rx q =>
    match rxRead q.size s with
    | .waiting => s
    | .got bytes s' => finish (q.result bytes) s'
    | .failed e s' => raise e s'
  | .idle => s
  | .tx _ => s

/-- An operation that writes a frame, from its acceptance as far as the Transport has answered (R31; D1: one atomic
step of at most one `TxWrite` and at most one `RxRead`, which the waiting points divide). -/
def perform (op : InFlight) (s : State) : State :=
  receive (transmit { s with phase := .tx op })

/-! ## Accepting a request -/

/-- The request port accepts an operation only in `IDLE`; otherwise nothing happens (R32, R33). -/
def accept (s : State) (effect : State → State) : State :=
  match s.phase with
  | .idle => effect s
  | .tx _ => s
  | .rx _ => s

/-- An operation that takes a channel: `CheckChannel` is its first line (R151, R182). -/
def withChannel (channel : Byte) (effect : Fin NCH → State → State) (s : State) : State :=
  match checkChannel channel with
  | some c => effect c s
  | none => raise (.invalidChannel channel) s

/-! ## The levels below the request port -/

/-- A wire command: the frame in flight is handed to the Transport if it is this command's; no other frame can be
sent (R69, R127). -/
def sendBody (body : List Byte) (s : State) : State :=
  match s.phase with
  | .tx op => if op.body = body then transmit s else s
  | .idle => s
  | .rx _ => s

/-- The response bytes that the read in flight is about to return, if it is about to return any. -/
def State.arriving (s : State) : Option (List Byte) :=
  match s.phase with
  | .rx q =>
    match rxRead q.size s with
    | .got bytes _ => some bytes
    | .waiting => none
    | .failed _ _ => none
  | .idle => none
  | .tx _ => none

/-- A response: it is taken if these are the bytes that arrive for the read in flight. -/
def takeResponse (bytes : List Byte) (s : State) : State :=
  if s.arriving = some bytes then receive s else s

/-! ## The owner -/

/-- The owner's action, in the state it finds; the flag says whether the machine accepts it (R210, R213, R222). -/
def ownerAct (a : OwnerAction) (s : State) : Option State :=
  match a with
  | .reset args =>
    match s.phase with
    | .idle => some (State.construct args s.transport s.requests)
    | .tx _ => none
    | .rx _ => none
  | .close => some { s with owner := none, transport := { s.transport with closed := true } }

/-! ## Fetching -/

/-- The packet the sequencer takes up next: in `IDLE` the request at the port, in `TX` the body of the frame in
flight, in `RX` the response about to be returned. DESIGN CHOICE (log 4), safe: the block has no instruction fetch
(R30), and naming what it is about to do by a packet changes nothing it does. -/
def State.nextPacket (s : State) : Option Packet :=
  match s.phase with
  | .idle => s.requests.head?.map .request
  | .tx op => some (.body op.body)
  | .rx _ => s.arriving.map .response

/-- Taking up a request removes it from the port; the other packets stay where they are. -/
def State.consume (s : State) : State :=
  match s.phase with
  | .idle => { s with requests := s.requests.tail }
  | .tx _ => s
  | .rx _ => s

/-- The operation in flight whose frame is a given wire command; none for a channel above 23, which no operation
sends (R100). -/
def InFlight.ofCommand : Instr → Option InFlight
  | .wireSetTarget ch v => (checkChannel ch).map (InFlight.setTarget · v)
  | .wireSetSpeed ch v => (checkChannel ch).map (InFlight.setSpeed · v)
  | .wireSetAcceleration ch v => (checkChannel ch).map (InFlight.setAccel · v)
  | .wireGetPosition ch => (checkChannel ch).map InFlight.getPosition
  | .wireGetMovingState => some .getMovingState
  | .wireRunScriptSubroutine n => some (.runScriptSubroutine n)
  | .wireStopScript => some .stopScript
  | .positionResponse _ _ => none
  | .movingStateResponse _ => none
  | .setRange _ _ _ => none
  | .setTarget _ _ => none
  | .setSpeed _ _ => none
  | .setAccel _ _ => none
  | .getPosition _ => none
  | .isMoving _ => none
  | .getMovingState => none
  | .runScriptSubroutine _ => none
  | .stopScript => none
  | .reserved9 => none
  | .reservedA => none
  | .reservedB => none
  | .reservedC => none
  | .reservedD => none
  | .reservedE => none
  | .reservedF => none

/-- The read in flight that a response of a given length answers. -/
def Query.ofResponse (bytes : List Byte) : Query := if bytes.length = 1 then .movingState else .position

/-- The state in which `i` is what the sequencer takes up next: a request stands first at the port, a wire command is
in flight in `TX`, a response is about to be returned in `RX`. No owner action stands before it. -/
def State.place (i : Instr) (s : State) : State :=
  match encode i with
  | .request r => { s with owner := none, phase := .idle, requests := r :: s.requests }
  | .body _ =>
    match InFlight.ofCommand i with
    | some op => { s with owner := none, phase := .tx op }
    | none => s
  | .response bytes =>
    { s with
      owner := none
      phase := .rx (Query.ofResponse bytes)
      transport := { s.transport with
        rxStream := bytes ++ s.transport.rxStream
        readAnswers := .ok :: s.transport.readAnswers
        closed := false } }

end Sys2Proof.Machine
end

