-- ==== Sys2Proof/Machine/PassThrough.lean ====
section
/-! DEFINITION. The pass-through host operations: encode and send, with no local state and no response
(spec/42_channel_controller.md R155, R156, R164, R165). -/

namespace Sys2Proof.Machine

/-- `setSpeed(channel, speed)` (R155): no clamping. -/
def execSetSpeed (channel : Byte) (speed : U16) (s : State) : Host.Outcome State Fault Refusal :=
  .next (accept s (withChannel channel fun c => perform (.setSpeed c speed)))

/-- `setAccel(channel, accel)` (R156): no clamping. -/
def execSetAccel (channel : Byte) (accel : U16) (s : State) : Host.Outcome State Fault Refusal :=
  .next (accept s (withChannel channel fun c => perform (.setAccel c accel)))

/-- `runScriptSubroutine(n)` (R164): `n` is no channel and is not checked. -/
def execRunScriptSubroutine (n : Byte) (s : State) : Host.Outcome State Fault Refusal :=
  .next (accept s (perform (.runScriptSubroutine n)))

/-- `stopScript()` (R165). -/
def execStopScript (s : State) : Host.Outcome State Fault Refusal :=
  .next (accept s (perform .stopScript))

end Sys2Proof.Machine
end

