-- ==== Sys2Proof/Machine/Queries.lean ====
section
/-! DEFINITION. The queries (spec/42_channel_controller.md R158, R160, R162). -/

namespace Sys2Proof.Machine

/-- `getPosition(channel)` (R158). -/
def execGetPosition (channel : Byte) (s : State) : Host.Outcome State Fault Refusal :=
  .next (accept s (withChannel channel fun c => perform (.getPosition c)))

/-- `isMoving(channel)` (R160): false at once on a channel never commanded, with no frame and no read (C6). -/
def execIsMoving (channel : Byte) (s : State) : Host.Outcome State Fault Refusal :=
  .next (accept s (withChannel channel fun c s =>
    let t := (s.entry c).target
    if t = 0 then finish (.bool false) s else perform (.isMoving c t) s))

/-- `getMovingState()` (R162). -/
def execGetMovingState (s : State) : Host.Outcome State Fault Refusal :=
  .next (accept s (perform .getMovingState))

end Sys2Proof.Machine
end

