-- ==== Sys2Proof/Machine/RegisterFile.lean ====
section
/-! DEFINITION. The host operations that change the register file: `setRange` and `setTarget`
(spec/42_channel_controller.md R150, R152). -/

namespace Sys2Proof.Machine

/-- `setRange(channel, min, max)` (R150): both limits are stored as given; nothing is sent. -/
def execSetRange (channel : Byte) (min max : U16) (s : State) : Host.Outcome State Fault Refusal :=
  .next (accept s (withChannel channel fun c s => finish .ok (s.writeLimits c min max)))

/-- `setTarget(channel, target)` (R152): clamp, send, and on success store the clamped value. -/
def execSetTarget (channel : Byte) (target : U16) (s : State) : Host.Outcome State Fault Refusal :=
  .next (accept s (withChannel channel fun c s => perform (.setTarget c (s.clampedTarget c target)) s))

end Sys2Proof.Machine
end

