-- ==== Sys2Proof/Machine/Reserved.lean ====
section
/-! DEFINITION. The reserved operation select codes (spec/42_channel_controller.md R166): each is answered with
`IllegalOperation` and its own code, and has no other effect (R184). -/

namespace Sys2Proof.Machine

/-- Select code 0x9. -/
def execReserved9 (s : State) : Host.Outcome State Fault Refusal :=
  .next (accept s (raise (.illegalOperation 0x9)))

/-- Select code 0xA. -/
def execReservedA (s : State) : Host.Outcome State Fault Refusal :=
  .next (accept s (raise (.illegalOperation 0xA)))

/-- Select code 0xB. -/
def execReservedB (s : State) : Host.Outcome State Fault Refusal :=
  .next (accept s (raise (.illegalOperation 0xB)))

/-- Select code 0xC. -/
def execReservedC (s : State) : Host.Outcome State Fault Refusal :=
  .next (accept s (raise (.illegalOperation 0xC)))

/-- Select code 0xD. -/
def execReservedD (s : State) : Host.Outcome State Fault Refusal :=
  .next (accept s (raise (.illegalOperation 0xD)))

/-- Select code 0xE. -/
def execReservedE (s : State) : Host.Outcome State Fault Refusal :=
  .next (accept s (raise (.illegalOperation 0xE)))

/-- Select code 0xF. -/
def execReservedF (s : State) : Host.Outcome State Fault Refusal :=
  .next (accept s (raise (.illegalOperation 0xF)))

end Sys2Proof.Machine
end

