-- ==== Sys2Proof/Machine/Response.lean ====
section
/-! DEFINITION. The two responses (spec/41_framecodec_decode.md R140, R141): the bytes that arrive for the read in
flight become the result of its operation. -/

namespace Sys2Proof.Machine

/-- The response to GetPosition, format `P2` (R87, R140); it answers `getPosition` and `isMoving`. -/
def execPositionResponse (lsb msb : Byte) (s : State) : Host.Outcome State Fault Refusal :=
  .next (takeResponse [lsb, msb] s)

/-- The response to GetMovingState, format `P1` (R88, R141). -/
def execMovingStateResponse (state : Byte) (s : State) : Host.Outcome State Fault Refusal :=
  .next (takeResponse [state] s)

end Sys2Proof.Machine
end

