-- ==== Sys2Proof/Machine/Wire.lean ====
section
/-! DEFINITION. The seven wire commands (spec/40_framecodec_encode.md R120 to R126): each hands its own frame,
`Frame(ENC_X(...))` (R127), to the Transport when it is the frame in flight. -/

namespace Sys2Proof.Machine

/-- SetTarget (R120). -/
def execWireSetTarget (channel : Byte) (target : U16) (s : State) : Host.Outcome State Fault Refusal :=
  .next (sendBody (encSetTarget channel target) s)

/-- SetSpeed (R121). -/
def execWireSetSpeed (channel : Byte) (speed : U16) (s : State) : Host.Outcome State Fault Refusal :=
  .next (sendBody (encSetSpeed channel speed) s)

/-- SetAcceleration (R122). -/
def execWireSetAcceleration (channel : Byte) (accel : U16) (s : State) : Host.Outcome State Fault Refusal :=
  .next (sendBody (encSetAcceleration channel accel) s)

/-- GetPosition (R123). -/
def execWireGetPosition (channel : Byte) (s : State) : Host.Outcome State Fault Refusal :=
  .next (sendBody (encGetPosition channel) s)

/-- GetMovingState (R124). -/
def execWireGetMovingState (s : State) : Host.Outcome State Fault Refusal :=
  .next (sendBody encGetMovingState s)

/-- RunScriptSubroutine (R125). -/
def execWireRunScriptSubroutine (n : Byte) (s : State) : Host.Outcome State Fault Refusal :=
  .next (sendBody (encRunScriptSubroutine n) s)

/-- StopScript (R126). -/
def execWireStopScript (s : State) : Host.Outcome State Fault Refusal :=
  .next (sendBody encStopScript s)

end Sys2Proof.Machine
end

