-- ==== Sys2Proof/Machine/Dispatch.lean ====
section
/-! DEFINITION. One arm per constructor of Instr. -/

namespace Sys2Proof.Machine

def exec (i : Instr) (s : State) : Host.Outcome State Fault Refusal :=
  match i with
  | .wireSetTarget ch v => Sys2Proof.Machine.execWireSetTarget ch v s
  | .wireSetSpeed ch v => Sys2Proof.Machine.execWireSetSpeed ch v s
  | .wireSetAcceleration ch v => Sys2Proof.Machine.execWireSetAcceleration ch v s
  | .wireGetPosition ch => Sys2Proof.Machine.execWireGetPosition ch s
  | .wireGetMovingState => Sys2Proof.Machine.execWireGetMovingState s
  | .wireRunScriptSubroutine n => Sys2Proof.Machine.execWireRunScriptSubroutine n s
  | .wireStopScript => Sys2Proof.Machine.execWireStopScript s
  | .positionResponse lsb msb => Sys2Proof.Machine.execPositionResponse lsb msb s
  | .movingStateResponse st => Sys2Proof.Machine.execMovingStateResponse st s
  | .setRange ch min max => Sys2Proof.Machine.execSetRange ch min max s
  | .setTarget ch v => Sys2Proof.Machine.execSetTarget ch v s
  | .setSpeed ch v => Sys2Proof.Machine.execSetSpeed ch v s
  | .setAccel ch v => Sys2Proof.Machine.execSetAccel ch v s
  | .getPosition ch => Sys2Proof.Machine.execGetPosition ch s
  | .isMoving ch => Sys2Proof.Machine.execIsMoving ch s
  | .getMovingState => Sys2Proof.Machine.execGetMovingState s
  | .runScriptSubroutine n => Sys2Proof.Machine.execRunScriptSubroutine n s
  | .stopScript => Sys2Proof.Machine.execStopScript s
  | .reserved9 => Sys2Proof.Machine.execReserved9 s
  | .reservedA => Sys2Proof.Machine.execReservedA s
  | .reservedB => Sys2Proof.Machine.execReservedB s
  | .reservedC => Sys2Proof.Machine.execReservedC s
  | .reservedD => Sys2Proof.Machine.execReservedD s
  | .reservedE => Sys2Proof.Machine.execReservedE s
  | .reservedF => Sys2Proof.Machine.execReservedF s

end Sys2Proof.Machine
end

