-- ==== Sys2Proof/Machine/Step.lean ====
section
/-! DEFINITION. One step of the machine: the owner's action if there is one, otherwise the instruction whose packet the
sequencer takes up next, otherwise waiting. -/

namespace Sys2Proof.Machine

/-- One step. With an owner's action pending, that (R210, R213, R222). Otherwise the next packet is decoded and
executed (R30, R66). Where there is none, a read in flight either has failed, which `receive` reports, or has not been
answered, and nothing happens (R63, R189); in `IDLE` the block waits for a request. -/
def step (s : State) : Host.Outcome State Fault Refusal :=
  match s.owner with
  | some a =>
    match ownerAct a s with
    | some s' => .next s'
    | none => .refused .resetInFlight
  | none =>
    match s.nextPacket with
    | none => .next (receive s)
    | some p =>
      match decode p with
      | .ok i => exec i s.consume
      | .error e => .fault (.undecodable e)

/-- The state whose very next step runs the instruction that a word of the opcode table encodes. -/
def State.withFetchWord (s : State) (nbits w : Nat) : State :=
  match decodeTableWord nbits w with
  | some i => s.place i
  | none => s

end Sys2Proof.Machine
end

