-- ==== Sys2Proof/Machine/Flags.lean ====
section
/-! DEFINITION. The result port's fields as numbers. The block has no status flags or condition codes (spec/10_state.md
R41): the outcome of an operation stands in its own result alone, so what this file computes is `rsp.status` and
`rsp.data` (R35, R36). -/

namespace Sys2Proof.Machine

/-- The status code of an error (R36, R180). -/
def OpError.status : OpError → BitVec 3
  | .transport => 1
  | .shortRead => 2
  | .invalidChannel _ => 3
  | .illegalOperation _ => 4

/-- `rsp.status` (R36). -/
def Result.status : Result → BitVec 3
  | .ok => 0
  | .position _ => 0
  | .bool _ => 0
  | .error e => e.status

/-- `rsp.data`, where it has a meaning (R35): a position whole, a Boolean in bit 0. -/
def Result.data : Result → Option U16
  | .ok => none
  | .position p => some p
  | .bool b => some (if b then 1 else 0)
  | .error _ => none

end Sys2Proof.Machine
end

