-- ==== Sys2Proof/Safety.lean ====
section
/-! DEFINITION. The terms claims are stated in: what accepting an operation starts, what bytes the block may have sent,
which runs the environment allows, and when two states differ in the ghost flag alone. The machine uses none of it. -/

namespace Sys2Proof.Machine

/-! ## What an accepted operation starts -/

/-- The operation in flight that accepting `i` in `IDLE` makes; `none` where it sends no frame (spec/10_state.md R31;
spec/42_channel_controller.md R167). -/
def starts (i : Instr) (s : State) : Option InFlight :=
  match i with
  | .setTarget ch v => (checkChannel ch).map fun c => .setTarget c (s.clampedTarget c v)
  | .setSpeed ch v => (checkChannel ch).map fun c => .setSpeed c v
  | .setAccel ch v => (checkChannel ch).map fun c => .setAccel c v
  | .getPosition ch => (checkChannel ch).map fun c => .getPosition c
  | .isMoving ch =>
    match checkChannel ch with
    | some c => if (s.entry c).target = 0 then none else some (.isMoving c (s.entry c).target)
    | none => none
  | .getMovingState => some .getMovingState
  | .runScriptSubroutine n => some (.runScriptSubroutine n)
  | .stopScript => some .stopScript
  | .setRange _ _ _ => none
  | .wireSetTarget _ _ => none
  | .wireSetSpeed _ _ => none
  | .wireSetAcceleration _ _ => none
  | .wireGetPosition _ => none
  | .wireGetMovingState => none
  | .wireRunScriptSubroutine _ => none
  | .wireStopScript => none
  | .positionResponse _ _ => none
  | .movingStateResponse _ => none
  | .reserved9 => none
  | .reservedA => none
  | .reservedB => none
  | .reservedC => none
  | .reservedD => none
  | .reservedE => none
  | .reservedF => none

/-- The read an operation goes on to once its frame is written; `none` where no response is read (R97, R167). -/
def InFlight.query? : InFlight → Option Query
  | .setTarget _ _ => none
  | .setSpeed _ _ => none
  | .setAccel _ _ => none
  | .getPosition _ => some .position
  | .isMoving _ t => some (.isMoving t)
  | .getMovingState => some .movingState
  | .runScriptSubroutine _ => none
  | .stopScript => none

/-- The six operations that take a channel, with its operand (R151). -/
def channelOperand : Instr → Option Byte
  | .setRange ch _ _ => some ch
  | .setTarget ch _ => some ch
  | .setSpeed ch _ => some ch
  | .setAccel ch _ => some ch
  | .getPosition ch => some ch
  | .isMoving ch => some ch
  | .wireSetTarget _ _ => none
  | .wireSetSpeed _ _ => none
  | .wireSetAcceleration _ _ => none
  | .wireGetPosition _ => none
  | .wireGetMovingState => none
  | .wireRunScriptSubroutine _ => none
  | .wireStopScript => none
  | .positionResponse _ _ => none
  | .movingStateResponse _ => none
  | .getMovingState => none
  | .runScriptSubroutine _ => none
  | .stopScript => none
  | .reserved9 => none
  | .reservedA => none
  | .reservedB => none
  | .reservedC => none
  | .reservedD => none
  | .reservedE => none
  | .reservedF => none

/-- The register-file channel whose entry an instruction may write, by its own number (R28, R54). -/
def writesEntry : Instr → Option Byte
  | .setRange ch _ _ => some ch
  | .setTarget ch _ => some ch
  | .wireSetTarget ch _ => some ch
  | .wireSetSpeed _ _ => none
  | .wireSetAcceleration _ _ => none
  | .wireGetPosition _ => none
  | .wireGetMovingState => none
  | .wireRunScriptSubroutine _ => none
  | .wireStopScript => none
  | .positionResponse _ _ => none
  | .movingStateResponse _ => none
  | .setSpeed _ _ => none
  | .setAccel _ _ => none
  | .getPosition _ => none
  | .isMoving _ => none
  | .getMovingState => none
  | .runScriptSubroutine _ => none
  | .stopScript => none
  | .reserved9 => none
  | .reservedA => none
  | .reservedB => none
  | .reservedC => none
  | .reservedD => none
  | .reservedE => none
  | .reservedF => none

/-! ## The bytes the block may have sent -/

/-- `bytes` is a whole frame of one of the seven wire commands, for a channel the register file has and a value that
fits the wire (R95, R127). -/
def IsCommandFrame (mode : AddrMode) (devAddr : Byte) (bytes : List Byte) : Prop :=
  ∃ i : Instr, ∃ body : List Byte, i.wf = true ∧ (InFlight.ofCommand i).isSome = true ∧ encode i = .body body ∧
    bytes = frame mode devAddr body

/-- `trace` is whole frames, one after another (R57, R67). -/
def WholeFrames (mode : AddrMode) (devAddr : Byte) (trace : List Byte) : Prop :=
  ∃ frames : List (List Byte), trace = frames.flatten ∧ ∀ f ∈ frames, IsCommandFrame mode devAddr f

/-- `trace` is a succession of frames, any of which may have been cut short by a failed write (R37, R58). -/
def FrameParts (mode : AddrMode) (devAddr : Byte) (trace : List Byte) : Prop :=
  ∃ parts : List (List Byte), trace = parts.flatten ∧
    ∀ p ∈ parts, ∃ f, IsCommandFrame mode devAddr f ∧ p <+: f

/-- Every byte the block has sent belongs to a command frame, whole or cut short. -/
def State.OnlyFramesSent (s : State) : Prop := FrameParts s.addrMode s.devAddr s.txTrace

/-- As long as no operation has ended in `TransportError`, every frame was sent whole. -/
def State.WholeUnlessFailed (s : State) : Prop :=
  Result.error .transport ∉ s.results → WholeFrames s.addrMode s.devAddr s.txTrace

/-- After a short read the stream counts as desynchronised until reset (R39, R61, R183). -/
def State.ShortReadDesyncs (s : State) : Prop :=
  Result.error .shortRead ∈ s.results → s.rxSync = false

/-! ## Runs -/

/-- What the environment may do between two steps: the host presents a request, the owner asks for an action, bytes
arrive, the Transport answers a write or a read. -/
inductive EnvMove : State → State → Prop where
  | present (s : State) (r : Request) : EnvMove s { s with requests := s.requests ++ [r] }
  | ask (s : State) (a : OwnerAction) : s.owner = none → EnvMove s { s with owner := some a }
  | arrive (s : State) (bytes : List Byte) :
      EnvMove s { s with transport := { s.transport with rxStream := s.transport.rxStream ++ bytes } }
  | answerWrite (s : State) (a : WriteAnswer) :
      EnvMove s { s with transport := { s.transport with writeAnswers := s.transport.writeAnswers ++ [a] } }
  | answerRead (s : State) (a : ReadAnswer) :
      EnvMove s { s with transport := { s.transport with readAnswers := s.transport.readAnswers ++ [a] } }

/-- The states a run can reach: from any construction, by steps of the machine and moves of the environment. -/
inductive Reachable : State → Prop where
  | construct (args : ResetArgs) (present : Transport) (requests : List Request) :
      Reachable (State.construct args present requests)
  | step (s t : State) : Reachable s → step s = .next t → Reachable t
  | env (s t : State) : Reachable s → EnvMove s t → Reachable t

/-- A Transport that applies no deadline never reports a short read (R63, D9). The machine's own Transport applies
`Config.readDeadline`, which is open; a claim names the deadline it is about. -/
def Transport.RespectsDeadline (deadline : Option Nat) (tr : Transport) : Prop :=
  deadline = none → ∀ k j, ReadAnswer.short k j ∉ tr.readAnswers

/-! ## Noninterference -/

/-- Two states that differ in the ghost flag at most. -/
def SameButGhost (s t : State) : Prop := { s with rxSync := true } = { t with rxSync := true }

/-- Two outcomes of one kind, with states that differ in the ghost flag at most. -/
def OutcomesSameButGhost : Host.Outcome State Fault Refusal → Host.Outcome State Fault Refusal → Prop
  | .next s, .next t => SameButGhost s t
  | .fault a, .fault b => a = b
  | .refused a, .refused b => a = b
  | _, _ => False

end Sys2Proof.Machine
end

