-- ==== Sys2Proof/Certificates/Slice0/Obligations.lean ====
section
/-! DEFINITION. The statements for the provers, in the terms of Sys2Proof/Safety.lean. Every statement is for every
state, unless it says which. -/

open Sys2Proof Sys2Proof.Machine

/-- The 7/7 split takes bits [6:0] and [13:7] of a value, each into a byte with bit 7 clear. (R89, R129) -/
def Obligations.SplitTakesSevenAndSevenBits : Prop :=
  ∀ (v : U16) (ch : Byte),
    (split7 v).1.setWidth 16 = v &&& 0x7F ∧
    (split7 v).2.setWidth 16 = (v >>> 7) &&& 0x7F ∧
    (split7 v).1 = (v.extractLsb' 0 7).setWidth 8 ∧
    (split7 v).2 = (v.extractLsb' 7 7).setWidth 8 ∧
    (∀ w : U16, w.extractLsb' 0 14 = v.extractLsb' 0 14 → split7 w = split7 v) ∧
    encSetTarget ch v = [0x04, ch, (split7 v).1, (split7 v).2] ∧
    encSetSpeed ch v = [0x07, ch, (split7 v).1, (split7 v).2] ∧
    encSetAcceleration ch v = [0x09, ch, (split7 v).1, (split7 v).2]

/-- A value above 16383 is sent as its low 14 bits, and both data bytes have bit 7 clear. (30_encoding.md section 2
(R90), 40_framecodec_encode.md section 3) -/
def Obligations.HighValueBitsAreNotSent : Prop :=
  ∀ (ch : Byte) (v : U16),
    encSetTarget ch v = encSetTarget ch (v &&& 0x3FFF) ∧
    encSetSpeed ch v = encSetSpeed ch (v &&& 0x3FFF) ∧
    encSetAcceleration ch v = encSetAcceleration ch (v &&& 0x3FFF) ∧
    (split7 v).1.msb = false ∧ (split7 v).2.msb = false ∧
    split7 16384 = (0x00, 0x00) ∧ split7 20000 = (0x20, 0x1C) ∧ split7 65535 = (0x7F, 0x7F)

/-- The 7/7 split and the 8/8 combination obey the laws of R93 and are not interchangeable. (R93) -/
def Obligations.PackingsAreNotInterchangeable : Prop :=
  ∀ v p : U16,
    ((split7 v).2.setWidth 16 <<< 7) ||| (split7 v).1.setWidth 16 = v &&& 0x3FFF ∧
    (((split7 v).2.setWidth 16 <<< 7) ||| (split7 v).1.setWidth 16 = v ↔ v.toNat ≤ 16383) ∧
    decPosition ((p &&& 0xFF).setWidth 8) ((p >>> 8).setWidth 8) = p ∧
    (((split7 v).2.setWidth 16 <<< 8) ||| (split7 v).1.setWidth 16 = v ↔ v.toNat ≤ 127) ∧
    split7 6000 = (0x70, 0x2E) ∧ decPosition 0x70 0x2E = 11888

/-- The position parser is a bijection between byte pairs and 16-bit values; the moving-state parser tests for zero.
(R92, R143) -/
def Obligations.ResponseParsersLoseNoBit : Prop :=
  ∀ (b0 b1 : Byte) (p : U16),
    decPosition b0 b1 = (b1.setWidth 16 <<< 8) ||| b0.setWidth 16 ∧
    (b1.setWidth 16 <<< 8) &&& b0.setWidth 16 = (0 : U16) ∧
    (decPosition b0 b1).toNat = 256 * b1.toNat + b0.toNat ∧
    decPosition b0 b1 &&& 0xFF = b0.setWidth 16 ∧
    decPosition b0 b1 >>> 8 = b1.setWidth 16 ∧
    decPosition ((p &&& 0xFF).setWidth 8) ((p >>> 8).setWidth 8) = p ∧
    (decMovingState b0 = false ↔ b0 = 0)

/-- The opcode table: seven commands with their opcodes, formats, payloads and response lengths, and no others. (R95) -/
def Obligations.OpcodeTableIsComplete : Prop :=
  (∀ (ch : Byte) (v : U16),
    encSetTarget ch v = [0x04, ch, (split7 v).1, (split7 v).2] ∧
    encSetSpeed ch v = [0x07, ch, (split7 v).1, (split7 v).2] ∧
    encSetAcceleration ch v = [0x09, ch, (split7 v).1, (split7 v).2] ∧
    encGetPosition ch = [0x10, ch] ∧
    encGetMovingState = [0x13] ∧
    encRunScriptSubroutine ch = [0x27, ch] ∧
    encStopScript = [0x24]) ∧
  (∀ (c : Fin NCH) (n : Byte) (v : U16),
    (InFlight.getPosition c).query?.map Query.size = some 2 ∧
    (InFlight.isMoving c v).query?.map Query.size = some 2 ∧
    InFlight.getMovingState.query?.map Query.size = some 1 ∧
    (InFlight.setTarget c v).query? = none ∧ (InFlight.setSpeed c v).query? = none ∧
    (InFlight.setAccel c v).query? = none ∧ (InFlight.runScriptSubroutine n).query? = none ∧
    InFlight.stopScript.query? = none) ∧
  (∀ (opcode : Byte) (bytes rest : List Byte) (i : Instr), decodeBody (opcode :: bytes) = .ok (i, rest) →
    opcode ∈ ([0x04, 0x07, 0x09, 0x10, 0x13, 0x27, 0x24] : List Byte))

/-- The header is 0xAA and the device address in addressed mode and empty otherwise; frame lengths follow. (R82, R84) -/
def Obligations.HeaderAndFrameLengths : Prop :=
  (∀ (d : Byte) (body : List Byte),
    frame .addressed d body = [0xAA, d] ++ body ∧ frame .pointToPoint d body = body) ∧
  (∀ (d opcode arg : Byte) (v : U16),
    (bodyB1 opcode).length = 1 ∧ (bodyB2 opcode arg).length = 2 ∧ (bodyB4 opcode arg v).length = 4 ∧
    (frame .pointToPoint d (bodyB1 opcode)).length = 1 ∧ (frame .pointToPoint d (bodyB2 opcode arg)).length = 2 ∧
    (frame .pointToPoint d (bodyB4 opcode arg v)).length = 4 ∧
    (frame .addressed d (bodyB1 opcode)).length = 3 ∧ (frame .addressed d (bodyB2 opcode arg)).length = 4 ∧
    (frame .addressed d (bodyB4 opcode arg v)).length = 6) ∧
  (∀ (b0 b1 : Byte), encode (.positionResponse b0 b1) = .response [b0, b1] ∧
    encode (.movingStateResponse b0) = .response [b0]) ∧
  (∀ t : U16, Query.position.size = 2 ∧ (Query.isMoving t).size = 2 ∧ Query.movingState.size = 1)

/-- Decoding the encoding of any well-formed instruction gives that instruction back. (30_encoding.md sections 1 to 4,
10_state.md section 5 (R34)) -/
def Obligations.EncodeDecodeRoundTrip : Prop :=
  ∀ i : Instr, i.wf = true → decode (encode i) = .ok i

/-- What the decoder accepts is the encoding of what it answers, which is well-formed. (30_encoding.md section 4 (R98),
10_state.md section 5 (R33, R34)) -/
def Obligations.DecodedBytesReencode : Prop :=
  (∀ (bytes : List Byte) (i : Instr), decode (.body bytes) = .ok i → i.wf = true ∧ encode i = .body bytes) ∧
  (∀ (bytes : List Byte) (i : Instr), decode (.response bytes) = .ok i → i.wf = true ∧ encode i = .response bytes) ∧
  (∀ (r : Request), ∃ r' : Request, encode (decodeRequest r) = .request r' ∧ r'.op = r.op)

/-- Unknown opcodes, cut frames, data bytes with bit 7 set and wrong headers are refused by name. (30_encoding.md
sections 4 and 5 (R98, R99)) -/
def Obligations.DecoderRefusesWhatIsNeverSent : Prop :=
  (∀ (opcode : Byte) (rest : List Byte), opcode ∉ ([0x04, 0x07, 0x09, 0x10, 0x13, 0x27, 0x24] : List Byte) →
    decodeBody (opcode :: rest) = .error (.unknownOpcode opcode)) ∧
  decodeBody [] = .error .missingByte ∧
  (∀ opcode ∈ ([0x04, 0x07, 0x09] : List Byte), ∀ payload : List Byte, payload.length < 3 →
    decodeBody (opcode :: payload) = .error .missingByte) ∧
  (∀ opcode ∈ ([0x10, 0x27] : List Byte), decodeBody [opcode] = .error .missingByte) ∧
  (∀ opcode ∈ ([0x04, 0x07, 0x09] : List Byte), ∀ (ch lsb msb : Byte) (rest : List Byte), 128 ≤ lsb.toNat ∨ 128 ≤ msb.toNat →
    decodeBody (opcode :: ch :: lsb :: msb :: rest) = .error .highBitSet) ∧
  (∀ (h d : Byte) (rest : List Byte), h ≠ 0xAA → decodeFrame .addressed (h :: d :: rest) = .error (.badHeader h))

/-- Words written out from the spec's encodings decode to the instructions they stand for. (95_test_vectors.md sections
2.1, 2.2, 2.4, 10_state.md section 5 (R34)) -/
def Obligations.DecoderReadsTheSpecsWords : Prop :=
  decode (.body [0x04, 0x01, 0x38, 0x17]) = .ok (.wireSetTarget 1 3000) ∧
  decode (.body [0x27, 0xC8]) = .ok (.wireRunScriptSubroutine 200) ∧
  decode (.body [0x24]) = .ok .wireStopScript ∧
  decode (.response [0x70, 0x17]) = .ok (.positionResponse 0x70 0x17) ∧
  decode (.request ⟨0x0, 0x00, 0x0BB8, 0x2328⟩) = .ok (.setRange 0 3000 9000) ∧
  decode (.request ⟨0x5, 0x00, 0x1234, 0x5678⟩) = .ok (.isMoving 0) ∧
  decode (.request ⟨0xF, 0x00, 0x0000, 0x0000⟩) = .ok .reservedF

/-- The parser of command frames reads back any frame the block can build, and leaves what follows it. (30_encoding.md
section 4 (R98)) -/
def Obligations.FrameParserInvertsFrames : Prop :=
  ∀ (d : Byte) (i : Instr) (body rest : List Byte), i.wf = true → encode i = .body body →
    decodeFrame .addressed (frame .addressed d body ++ rest) = .ok (some d, i, rest) ∧
    decodeFrame .pointToPoint (frame .pointToPoint d body ++ rest) = .ok (none, i, rest)

/-- A byte sequence made of whole frames parses completely, into well-formed commands for channels that exist.
(20_memory.md sections 5 and 6 (R67, R68), 30_encoding.md section 4 (R98)) -/
def Obligations.WholeFramesHaveOneReading : Prop :=
  ∀ (mode : AddrMode) (d : Byte) (trace : List Byte), WholeFrames mode d trace →
    ∃ cmds : List Instr, decodeFrames mode trace.length trace = .ok cmds ∧
      (∀ i ∈ cmds, i.wf = true ∧ (InFlight.ofCommand i).isSome = true) ∧
      trace = (cmds.map fun i =>
        match encode i with
        | .body body => frame mode d body
        | .request _ => []
        | .response _ => []).flatten

/-- The six channel-taking operations answer a channel above 23 with InvalidChannelError and no other effect. (R182) -/
def Obligations.ChannelAbove23IsRejected : Prop :=
  ∀ (ch : Byte) (s : State), s.phase = .idle → 23 < ch.toNat → ∀ (a b : U16),
    ∀ i ∈ [Instr.setRange ch a b, .setTarget ch a, .setSpeed ch a, .setAccel ch a, .getPosition ch, .isMoving ch],
      exec i s = .next { s with results := s.results ++ [.error (.invalidChannel ch)] }

/-- setRange stores both limits as given and ends OK; a channel above 23 changes nothing. (R150) -/
def Obligations.SetRangeStoresBothLimits : Prop :=
  ∀ (ch : Byte) (mn mx : U16) (s : State), s.phase = .idle →
    (∀ c : Fin NCH, ch.toNat = c.val →
      exec (.setRange ch mn mx) s = .next { s with
        rf := s.rf.set c.val { target := (s.rf[c.val]).target, minLimit := mn, maxLimit := mx }
        results := s.results ++ [.ok] }) ∧
    (23 < ch.toNat →
      exec (.setRange ch mn mx) s = .next { s with results := s.results ++ [.error (.invalidChannel ch)] })

/-- setTarget sends the clamped target and, if the write succeeds, stores all 16 bits of it. (R152) -/
def Obligations.SetTargetClampsSendsAndStores : Prop :=
  ∀ (ch : Byte) (v : U16) (s : State) (ws : List WriteAnswer), s.phase = .idle → s.transport.closed = false →
    (∀ c : Fin NCH, ch.toNat = c.val → s.transport.writeAnswers = .ok :: ws →
      exec (.setTarget ch v) s = .next { s with
        txTrace := s.txTrace ++ frame s.addrMode s.devAddr
          (encSetTarget ch (clamp (s.rf[c.val]).minLimit (s.rf[c.val]).maxLimit v))
        rf := s.rf.set c.val { s.rf[c.val] with target := clamp (s.rf[c.val]).minLimit (s.rf[c.val]).maxLimit v }
        transport := { s.transport with writeAnswers := ws }
        results := s.results ++ [.ok] }) ∧
    (∀ (c : Fin NCH) (n : Nat), ch.toNat = c.val → s.transport.writeAnswers = .ioFail n :: ws →
      exec (.setTarget ch v) s = .next { s with
        txTrace := s.txTrace ++ (frame s.addrMode s.devAddr
          (encSetTarget ch (clamp (s.rf[c.val]).minLimit (s.rf[c.val]).maxLimit v))).take n
        transport := { s.transport with writeAnswers := ws }
        results := s.results ++ [.error .transport] }) ∧
    (23 < ch.toNat →
      exec (.setTarget ch v) s = .next { s with results := s.results ++ [.error (.invalidChannel ch)] })

/-- setSpeed, setAccel, runScriptSubroutine and stopScript send their frame unclamped and keep no record. (R155, R156,
R164, R165) -/
def Obligations.PassThroughCommandsSend : Prop :=
  ∀ (ch n : Byte) (v : U16) (s : State) (ws : List WriteAnswer), s.phase = .idle → s.transport.closed = false →
    (ch.toNat < 24 → s.transport.writeAnswers = .ok :: ws →
      ∀ p ∈ [(Instr.setSpeed ch v, encSetSpeed ch v), (.setAccel ch v, encSetAcceleration ch v),
        (.runScriptSubroutine n, encRunScriptSubroutine n), (.stopScript, encStopScript)],
        exec p.1 s = .next { s with
          txTrace := s.txTrace ++ frame s.addrMode s.devAddr p.2
          transport := { s.transport with writeAnswers := ws }
          results := s.results ++ [.ok] }) ∧
    (ch.toNat < 24 → ∀ k : Nat, s.transport.writeAnswers = .ioFail k :: ws →
      ∀ p ∈ [(Instr.setSpeed ch v, encSetSpeed ch v), (.setAccel ch v, encSetAcceleration ch v),
        (.runScriptSubroutine n, encRunScriptSubroutine n), (.stopScript, encStopScript)],
        exec p.1 s = .next { s with
          txTrace := s.txTrace ++ (frame s.addrMode s.devAddr p.2).take k
          transport := { s.transport with writeAnswers := ws }
          results := s.results ++ [.error .transport] }) ∧
    (23 < ch.toNat → ∀ i ∈ [Instr.setSpeed ch v, .setAccel ch v],
        exec i s = .next { s with results := s.results ++ [.error (.invalidChannel ch)] })

/-- getPosition writes its frame, reads two bytes and returns their 8/8 combination. (42_channel_controller.md section 4
(R158), 41_framecodec_decode.md (R140)) -/
def Obligations.GetPositionReturnsTheBytesRead : Prop :=
  ∀ (ch b0 b1 : Byte) (s : State) (rx : List Byte) (ws : List WriteAnswer) (rs : List ReadAnswer),
    s.phase = .idle → ch.toNat < 24 →
    s.transport = { rxStream := b0 :: b1 :: rx, writeAnswers := .ok :: ws, readAnswers := .ok :: rs, closed := false } →
    ∃ p : U16, p.toNat = 256 * b1.toNat + b0.toNat ∧
      exec (.getPosition ch) s = .next { s with
        txTrace := s.txTrace ++ frame s.addrMode s.devAddr [0x10, ch]
        transport := { rxStream := rx, writeAnswers := ws, readAnswers := rs, closed := false }
        results := s.results ++ [.position p] }

/-- isMoving answers false at once on a stored target of 0, and otherwise compares a fresh position with it.
(42_channel_controller.md section 2 (R160), 90_conflicts.md C6) -/
def Obligations.IsMovingComparesWithTheStoredTarget : Prop :=
  ∀ (ch b0 b1 : Byte) (s : State) (c : Fin NCH) (rx : List Byte) (ws : List WriteAnswer) (rs : List ReadAnswer),
    s.phase = .idle → ch.toNat = c.val →
    ((s.rf[c.val]).target = 0 →
      exec (.isMoving ch) s = .next { s with results := s.results ++ [.bool false] }) ∧
    ((s.rf[c.val]).target ≠ 0 →
      s.transport = { rxStream := b0 :: b1 :: rx, writeAnswers := .ok :: ws, readAnswers := .ok :: rs, closed := false } →
      exec (.isMoving ch) s = .next { s with
        txTrace := s.txTrace ++ frame s.addrMode s.devAddr [0x10, ch]
        transport := { rxStream := rx, writeAnswers := ws, readAnswers := rs, closed := false }
        results := s.results ++ [.bool (decide (256 * b1.toNat + b0.toNat ≠ (s.rf[c.val]).target.toNat))] })

/-- getMovingState writes its frame, reads one byte and returns whether it is nonzero. (42_channel_controller.md section
4 (R162), 41_framecodec_decode.md (R141)) -/
def Obligations.GetMovingStateReturnsWhetherNonzero : Prop :=
  ∀ (b0 : Byte) (s : State) (rx : List Byte) (ws : List WriteAnswer) (rs : List ReadAnswer), s.phase = .idle →
    s.transport = { rxStream := b0 :: rx, writeAnswers := .ok :: ws, readAnswers := .ok :: rs, closed := false } →
    exec .getMovingState s = .next { s with
      txTrace := s.txTrace ++ frame s.addrMode s.devAddr [0x13]
      transport := { rxStream := rx, writeAnswers := ws, readAnswers := rs, closed := false }
      results := s.results ++ [.bool (decide (b0.toNat ≠ 0))] }

/-- The select codes 0x9 to 0xF are answered with IllegalOperation and have no other effect. (R166, R184) -/
def Obligations.ReservedCodesAreIllegal : Prop :=
  (∀ s : State, s.phase = .idle →
    ∀ p ∈ ([(.reserved9, 0x9), (.reservedA, 0xA), (.reservedB, 0xB), (.reservedC, 0xC), (.reservedD, 0xD),
        (.reservedE, 0xE), (.reservedF, 0xF)] : List (Instr × OpCode)),
      exec p.1 s = .next { s with results := s.results ++ [.error (.illegalOperation p.2)] }) ∧
  (∀ r : Request,
    ∀ p ∈ ([(.reserved9, 0x9), (.reservedA, 0xA), (.reservedB, 0xB), (.reservedC, 0xC), (.reservedD, 0xD),
        (.reservedE, 0xE), (.reservedF, 0xF)] : List (Instr × OpCode)),
      r.op = p.2 → decodeRequest r = p.1)

/-- A failed write ends any sending operation in TransportError after some first part of its frame. (R58) -/
def Obligations.FailedWriteEndsTheOperation : Prop :=
  ∀ (i : Instr) (s : State) (op : InFlight) (n : Nat) (ws : List WriteAnswer),
    s.transport.closed = false → s.transport.writeAnswers = .ioFail n :: ws →
    (s.phase = .idle → starts i s = some op →
      exec i s = .next { s with
        txTrace := s.txTrace ++ (frame s.addrMode s.devAddr op.body).take n
        transport := { s.transport with writeAnswers := ws }
        results := s.results ++ [.error .transport] }) ∧
    (s.phase = .tx op → s.owner = none →
      step s = .next { s with
        phase := .idle
        txTrace := s.txTrace ++ (frame s.addrMode s.devAddr op.body).take n
        transport := { s.transport with writeAnswers := ws }
        results := s.results ++ [.error .transport] })

/-- A deadline expiry with k of n bytes ends the query in ShortReadError and clears rx_sync. (R61) -/
def Obligations.ShortReadEndsTheQuery : Prop :=
  ∀ (i : Instr) (s : State) (op : InFlight) (q : Query) (k j : Nat) (rx : List Byte) (ws : List WriteAnswer)
    (rs : List ReadAnswer), k < q.size → j ≤ k → k ≤ rx.length →
    (s.phase = .idle → starts i s = some op → op.query? = some q →
      s.transport = { rxStream := rx, writeAnswers := .ok :: ws, readAnswers := .short k j :: rs, closed := false } →
      exec i s = .next { s with
        txTrace := s.txTrace ++ frame s.addrMode s.devAddr op.body
        transport := { rxStream := rx.drop j, writeAnswers := ws, readAnswers := rs, closed := false }
        rxSync := false
        results := s.results ++ [.error .shortRead] }) ∧
    (s.phase = .rx q → s.owner = none →
      s.transport = { rxStream := rx, writeAnswers := ws, readAnswers := .short k j :: rs, closed := false } →
      step s = .next { s with
        phase := .idle
        transport := { rxStream := rx.drop j, writeAnswers := ws, readAnswers := rs, closed := false }
        rxSync := false
        results := s.results ++ [.error .shortRead] })

/-- An I/O failure of a read ends the query in TransportError and clears rx_sync. (R62) -/
def Obligations.FailedReadEndsTheQuery : Prop :=
  ∀ (i : Instr) (s : State) (op : InFlight) (q : Query) (j : Nat) (rx : List Byte) (ws : List WriteAnswer)
    (rs : List ReadAnswer),
    (s.phase = .idle → starts i s = some op → op.query? = some q →
      s.transport = { rxStream := rx, writeAnswers := .ok :: ws, readAnswers := .ioFail j :: rs, closed := false } →
      exec i s = .next { s with
        txTrace := s.txTrace ++ frame s.addrMode s.devAddr op.body
        transport := { rxStream := rx.drop j, writeAnswers := ws, readAnswers := rs, closed := false }
        rxSync := false
        results := s.results ++ [.error .transport] }) ∧
    (s.phase = .rx q → s.owner = none →
      s.transport = { rxStream := rx, writeAnswers := ws, readAnswers := .ioFail j :: rs, closed := false } →
      step s = .next { s with
        phase := .idle
        transport := { rxStream := rx.drop j, writeAnswers := ws, readAnswers := rs, closed := false }
        rxSync := false
        results := s.results ++ [.error .transport] })

/-- An operation whose write or read is not answered waits in TX or RX, and a hang changes nothing, however long.
(20_memory.md section 2 (R63), 60_exceptions.md section 3 (R189), 10_state.md section 4 (R31)) That the Transport's
answers are finite lists is the model's choice (log entry 3). -/
def Obligations.UnansweredTransportMakesTheBlockWait : Prop :=
  (∀ (i : Instr) (s : State) (op : InFlight), s.phase = .idle → starts i s = some op → s.transport.closed = false →
    s.transport.writeAnswers = [] → exec i s = .next { s with phase := .tx op }) ∧
  (∀ (i : Instr) (s : State) (op : InFlight) (q : Query) (rx : List Byte) (ws : List WriteAnswer) (rs : List ReadAnswer),
    s.phase = .idle → starts i s = some op → op.query? = some q →
    s.transport = { rxStream := rx, writeAnswers := .ok :: ws, readAnswers := rs, closed := false } →
    rs = [] ∨ (rs.head? = some .ok ∧ rx.length < q.size) →
    exec i s = .next { s with
      phase := .rx q
      txTrace := s.txTrace ++ frame s.addrMode s.devAddr op.body
      transport := { rxStream := rx, writeAnswers := ws, readAnswers := rs, closed := false } }) ∧
  (∀ (s : State) (op : InFlight) (k : Nat), s.owner = none → s.transport.closed = false → s.phase = .tx op →
    s.transport.writeAnswers = [] → Host.Core.run Sys2Proof.core k s = .next s) ∧
  (∀ (s : State) (q : Query) (k : Nat), s.owner = none → s.transport.closed = false → s.phase = .rx q →
    s.transport.readAnswers = [] ∨ (s.transport.readAnswers.head? = some .ok ∧ s.transport.rxStream.length < q.size) →
    Host.Core.run Sys2Proof.core k s = .next s)

/-- SetTarget, SetSpeed and SetAcceleration in flight in TX send their frame and end their operation.
(40_framecodec_encode.md section 2 (R120 to R122), 10_state.md section 4 (R31), 42_channel_controller.md section 2
(R152)) That a wire command goes on with the frame in flight is the model's reading (log entry 1). -/
def Obligations.WireValueCommandsSend : Prop :=
  ∀ (ch : Byte) (c : Fin NCH) (v w : U16) (s : State) (ws : List WriteAnswer), ch.toNat = c.val → split7 v = split7 w →
    s.transport.closed = false → s.transport.writeAnswers = .ok :: ws →
    (s.phase = .tx (.setTarget c w) →
      exec (.wireSetTarget ch v) s = .next { s with
        phase := .idle
        txTrace := s.txTrace ++ frame s.addrMode s.devAddr (encSetTarget ch v)
        rf := s.rf.set c.val { s.rf[c.val] with target := w }
        transport := { s.transport with writeAnswers := ws }
        results := s.results ++ [.ok] }) ∧
    (s.phase = .tx (.setSpeed c w) →
      exec (.wireSetSpeed ch v) s = .next { s with
        phase := .idle
        txTrace := s.txTrace ++ frame s.addrMode s.devAddr (encSetSpeed ch v)
        transport := { s.transport with writeAnswers := ws }
        results := s.results ++ [.ok] }) ∧
    (s.phase = .tx (.setAccel c w) →
      exec (.wireSetAcceleration ch v) s = .next { s with
        phase := .idle
        txTrace := s.txTrace ++ frame s.addrMode s.devAddr (encSetAcceleration ch v)
        transport := { s.transport with writeAnswers := ws }
        results := s.results ++ [.ok] })

/-- GetPosition and GetMovingState in flight go on to RX; RunScriptSubroutine and StopScript end their operation.
(40_framecodec_encode.md section 2 (R123 to R126), 10_state.md section 4 (R31)) That a wire command goes on with the
frame in flight is the model's reading (log entry 1). -/
def Obligations.WireQueryAndScriptCommandsSend : Prop :=
  ∀ (ch n : Byte) (c : Fin NCH) (t : U16) (s : State) (ws : List WriteAnswer), ch.toNat = c.val →
    s.transport.closed = false → s.transport.writeAnswers = .ok :: ws →
    (∀ p ∈ [(InFlight.getPosition c, Query.position), (.isMoving c t, .isMoving t)], s.phase = .tx p.1 →
      exec (.wireGetPosition ch) s = .next { s with
        phase := .rx p.2
        txTrace := s.txTrace ++ frame s.addrMode s.devAddr [0x10, ch]
        transport := { s.transport with writeAnswers := ws } }) ∧
    (s.phase = .tx .getMovingState →
      exec .wireGetMovingState s = .next { s with
        phase := .rx .movingState
        txTrace := s.txTrace ++ frame s.addrMode s.devAddr [0x13]
        transport := { s.transport with writeAnswers := ws } }) ∧
    (s.phase = .tx (.runScriptSubroutine n) →
      exec (.wireRunScriptSubroutine n) s = .next { s with
        phase := .idle
        txTrace := s.txTrace ++ frame s.addrMode s.devAddr [0x27, n]
        transport := { s.transport with writeAnswers := ws }
        results := s.results ++ [.ok] }) ∧
    (s.phase = .tx .stopScript →
      exec .wireStopScript s = .next { s with
        phase := .idle
        txTrace := s.txTrace ++ frame s.addrMode s.devAddr [0x24]
        transport := { s.transport with writeAnswers := ws }
        results := s.results ++ [.ok] })

/-- A response that arrives in RX is consumed and becomes the result of the query that waits for it.
(41_framecodec_decode.md (R140, R141), 10_state.md section 4 (R31), 20_memory.md section 2 (R59)) That a response
goes on with the read in flight is the model's reading (log entry 1). -/
def Obligations.ResponsesEndTheirQueries : Prop :=
  ∀ (b0 b1 : Byte) (t : U16) (s : State) (rx : List Byte) (ws : List WriteAnswer) (rs : List ReadAnswer),
    (s.transport = { rxStream := b0 :: b1 :: rx, writeAnswers := ws, readAnswers := .ok :: rs, closed := false } →
      (s.phase = .rx .position → ∃ p : U16, p.toNat = 256 * b1.toNat + b0.toNat ∧
        exec (.positionResponse b0 b1) s = .next { s with
          phase := .idle
          transport := { rxStream := rx, writeAnswers := ws, readAnswers := rs, closed := false }
          results := s.results ++ [.position p] }) ∧
      (s.phase = .rx (.isMoving t) →
        exec (.positionResponse b0 b1) s = .next { s with
          phase := .idle
          transport := { rxStream := rx, writeAnswers := ws, readAnswers := rs, closed := false }
          results := s.results ++ [.bool (decide (256 * b1.toNat + b0.toNat ≠ t.toNat))] })) ∧
    (s.transport = { rxStream := b0 :: rx, writeAnswers := ws, readAnswers := .ok :: rs, closed := false } →
      s.phase = .rx .movingState →
      exec (.movingStateResponse b0) s = .next { s with
        phase := .idle
        transport := { rxStream := rx, writeAnswers := ws, readAnswers := rs, closed := false }
        results := s.results ++ [.bool (decide (b0.toNat ≠ 0))] })

/-- While an operation is in flight no request is accepted. (R32) -/
def Obligations.OneOperationInFlight : Prop :=
  (∀ s t : State, s.owner = none → s.phase ≠ .idle → step s = .next t → t.requests = s.requests) ∧
  (∀ s t : State, s.owner = none → s.phase ≠ .idle → step s = .next t → t.phase ≠ .idle → t.results = s.results) ∧
  (∀ s t : State, s.owner = none → s.phase ≠ .idle → step s = .next t → t.phase = .idle →
    ∃ r, t.results = s.results ++ [r])

/-- A request in flight, a wire command not in flight and a response that does not arrive change nothing (log entry 12).
(10_state.md section 4 (R32), 20_memory.md section 6 (R69), 40_framecodec_encode.md section 1 (R127),
41_framecodec_decode.md (R142)) The first clause is R32's port that does not accept; all three are the model's
reading (log entry 12). -/
def Obligations.OnlyTheFrameInFlightIsSent : Prop :=
  (∀ (i : Instr) (r : Request) (s : State), encode i = .request r → s.phase ≠ .idle → exec i s = .next s) ∧
  (∀ (i : Instr) (body : List Byte) (s : State), encode i = .body body →
    (∀ op : InFlight, s.phase = .tx op → op.body ≠ body) → exec i s = .next s) ∧
  (∀ (i : Instr) (bytes : List Byte) (s : State), encode i = .response bytes →
    (∀ q : Query, s.phase = .rx q → ¬ (s.transport.closed = false ∧ s.transport.readAnswers.head? = some .ok ∧
      q.size = bytes.length ∧ bytes <+: s.transport.rxStream)) → exec i s = .next s)

/-- A step is exec of the decoded packet: the request at the port, the frame in flight, or the response that arrives.
(10_state.md sections 4 and 5 (R30, R33), 20_memory.md section 4 (R66)) What stands for a fetch is the model's
choice (log entry 4). -/
def Obligations.StepRunsTheDecodedInstruction : Prop :=
  (∀ (s : State) (r : Request) (rest : List Request) (i : Instr), s.owner = none → s.phase = .idle →
    s.requests = r :: rest → decode (.request r) = .ok i → step s = exec i { s with requests := rest }) ∧
  (∀ (s : State) (op : InFlight) (i : Instr), s.owner = none → s.phase = .tx op →
    decode (.body op.body) = .ok i → step s = exec i s) ∧
  (∀ (s : State) (q : Query) (rx : List Byte) (rs : List ReadAnswer) (i : Instr), s.owner = none → s.phase = .rx q →
    s.transport.closed = false → s.transport.readAnswers = .ok :: rs → s.transport.rxStream = rx → q.size ≤ rx.length →
    decode (.response (rx.take q.size)) = .ok i → step s = exec i s) ∧
  (∀ s : State, s.owner = none → s.phase = .idle → s.requests = [] → step s = .next s)

/-- Every instruction answers a next state; a step stops only by refusing a reset that is asked for in flight.
(60_exceptions.md sections 4 and 5 (R190, R194), 70_reset_and_hazards.md section 1 (R213)) The refusal is the spec's
decision D17 (log entry 13). -/
def Obligations.OnlyResetInFlightStopsTheMachine : Prop :=
  (∀ (i : Instr) (s : State), ∃ t, exec i s = .next t) ∧
  (∀ s : State, (∃ t, step s = .next t) ∨
    (step s = .refused .resetInFlight ∧ s.phase ≠ .idle ∧ ∃ args, s.owner = some (.reset args)))

/-- A reset in IDLE gives every piece of state its reset value. (R42) -/
def Obligations.ResetGivesEveryResetValue : Prop :=
  ∀ (s : State) (args : ResetArgs), s.owner = some (.reset args) → s.phase = .idle →
    ∃ t, step s = .next t ∧
      (∀ c : Fin NCH, (t.rf[c.val]).target = 0 ∧ (t.rf[c.val]).minLimit = 0 ∧ (t.rf[c.val]).maxLimit = 0) ∧
      (args.devAddr = none → t.devAddr = 0x0C) ∧ (∀ d, args.devAddr = some d → t.devAddr = d) ∧
      t.addrMode = args.addrMode ∧ t.phase = .idle ∧ t.txTrace = [] ∧ t.rxSync = true ∧
      (args.transport = none → t.transport.rxStream = s.transport.rxStream) ∧
      (∀ tr, args.transport = some tr → t.transport.rxStream = tr.rxStream)

/-- A reset in flight is refused (log entry 13); in IDLE it leaves the waiting requests and the Transport (log entry
11). (70_reset_and_hazards.md section 1 (R211, R213), 70_reset_and_hazards.md section 3 (R227)) What becomes of
requests, results and Transport is the model's choice (log entry 11). -/
def Obligations.ResetIsForIdleAndLeavesTheHostAlone : Prop :=
  (∀ (s : State) (args : ResetArgs), s.owner = some (.reset args) → s.phase ≠ .idle →
    step s = .refused .resetInFlight) ∧
  (∀ (s : State) (args : ResetArgs), s.owner = some (.reset args) → s.phase = .idle →
    ∃ t, step s = .next t ∧ (args.transport = none → t.transport = s.transport) ∧
      (∀ tr, args.transport = some tr → t.transport = tr) ∧
      t.results = [] ∧ t.requests = s.requests ∧ t.owner = none)

/-- The reset state: register file zero, DEVADDR 12, IDLE, nothing written, rx_sync true, nothing in flight.
(10_state.md section 8 (R42), 70_reset_and_hazards.md section 1 (R210, R211)) The last line of the statement is the
model's choice (log entries 2 and 8). -/
def Obligations.ResetState : Prop :=
  (∀ c : Fin NCH, (State.reset.rf[c.val]).target = 0 ∧ (State.reset.rf[c.val]).minLimit = 0 ∧
    (State.reset.rf[c.val]).maxLimit = 0) ∧
  State.reset.devAddr = 0x0C ∧ State.reset.phase = .idle ∧ State.reset.txTrace = [] ∧ State.reset.rxSync = true ∧
  State.reset.results = [] ∧ State.reset.requests = [] ∧ State.reset.owner = none ∧ State.reset.transport.closed = false

/-- Closing the Transport ends a blocked operation in TransportError and makes every later access fail (log entry 6).
(70_reset_and_hazards.md section 2 (R222), 60_exceptions.md section 3 (R189), 92_eei_decisions.md D18) That a closed
Transport answers with an I/O failure is the model's choice (log entry 6). -/
def Obligations.ClosingEndsTheOperationInFlight : Prop :=
  (∀ s : State, s.owner = some .close →
    step s = .next { s with owner := none, transport := { s.transport with closed := true } }) ∧
  (∀ (s : State) (op : InFlight), s.owner = none → s.transport.closed = true → s.phase = .tx op →
    ∃ t, step s = .next t ∧ t.phase = .idle ∧ t.results = s.results ++ [.error .transport] ∧ t.txTrace = s.txTrace ∧
      t.rf = s.rf ∧ t.rxSync = s.rxSync) ∧
  (∀ (s : State) (q : Query), s.owner = none → s.transport.closed = true → s.phase = .rx q →
    ∃ t, step s = .next t ∧ t.phase = .idle ∧ t.results = s.results ++ [.error .transport] ∧ t.txTrace = s.txTrace ∧
      t.rf = s.rf ∧ t.rxSync = false ∧ t.transport.rxStream = s.transport.rxStream) ∧
  (∀ (i : Instr) (s : State) (op : InFlight), s.phase = .idle → starts i s = some op → s.transport.closed = true →
    ∃ t, exec i s = .next t ∧ t.phase = .idle ∧ t.results = s.results ++ [.error .transport] ∧ t.txTrace = s.txTrace ∧
      t.rf = s.rf ∧ t.rxSync = s.rxSync)

/-- No step but a reset changes DEVADDR or ADDR_MODE. (10_state.md section 2 (R21, R22), 70_reset_and_hazards.md section
1 (R212)) -/
def Obligations.OnlyResetChangesTheConfiguration : Prop :=
  (∀ s t : State, step s = .next t → (∀ args, s.owner ≠ some (.reset args)) →
    t.devAddr = s.devAddr ∧ t.addrMode = s.addrMode) ∧
  (∀ (i : Instr) (s t : State), exec i s = .next t → t.devAddr = s.devAddr ∧ t.addrMode = s.addrMode)

/-- No step but a reset removes or alters a byte of tx_trace. (10_state.md section 6 (R37)) -/
def Obligations.TraceOnlyGrows : Prop :=
  ∀ s t : State, step s = .next t → (∀ args, s.owner ≠ some (.reset args)) → s.txTrace <+: t.txTrace

/-- Every step keeps: each byte sent belongs to a command frame of an existing channel, whole or cut short.
(40_framecodec_encode.md section 1 (R127), 20_memory.md section 2 (R57, R58), 30_encoding.md section 3 (R95)) -/
def Obligations.StepKeepsOnlyFramesSent : Prop :=
  ∀ s t : State, s.OnlyFramesSent → step s = .next t → t.OnlyFramesSent

/-- Every step keeps: as long as no operation ended in TransportError, tx_trace is whole command frames. (20_memory.md
sections 2 and 6 (R57, R58, R68), 60_exceptions.md section 4 (R191)) The list of results is the model's (log entry
11). -/
def Obligations.StepKeepsWholeUnlessFailed : Prop :=
  ∀ s t : State, s.WholeUnlessFailed → step s = .next t → t.WholeUnlessFailed

/-- Every step keeps: once an operation has ended in ShortReadError, rx_sync is false until reset. (10_state.md section
6 (R39), 60_exceptions.md section 1 (R183)) The list of results is the model's (log entry 11). -/
def Obligations.StepKeepsShortReadDesyncs : Prop :=
  ∀ s t : State, s.ShortReadDesyncs → step s = .next t → t.ShortReadDesyncs

/-- Every constructed state, the reset state among them, meets the three invariants. (10_state.md section 8 (R42)) -/
def Obligations.ConstructedStatesMeetTheInvariants : Prop :=
  (∀ (args : ResetArgs) (present : Transport) (requests : List Request),
    (State.construct args present requests).OnlyFramesSent ∧ (State.construct args present requests).WholeUnlessFailed ∧
    (State.construct args present requests).ShortReadDesyncs) ∧
  State.reset.OnlyFramesSent ∧ State.reset.WholeUnlessFailed ∧ State.reset.ShortReadDesyncs

/-- In every run, with any environment, only command frames are sent, whole unless a TransportError occurred.
(40_framecodec_encode.md section 1 (R127), 20_memory.md sections 2 and 6 (R57, R58, R68), 10_state.md section 6
(R37, R39)) The moves of the environment are the model's (log entry 3). -/
def Obligations.EveryRunSendsOnlyFrames : Prop :=
  ∀ s : State, Reachable s →
    s.OnlyFramesSent ∧ s.WholeUnlessFailed ∧ s.ShortReadDesyncs ∧
    (Result.error .transport ∉ s.results →
      ∃ cmds, decodeFrames s.addrMode s.txTrace.length s.txTrace = .ok cmds)

/-- No behaviour depends on rx_sync. (10_state.md section 6 (R39), 92_eei_decisions.md D10) -/
def Obligations.GhostFlagIsNeverRead : Prop :=
  (∀ (i : Instr) (s t : State), SameButGhost s t → OutcomesSameButGhost (exec i s) (exec i t)) ∧
  (∀ s t : State, SameButGhost s t → OutcomesSameButGhost (step s) (step t))

/-- rx_sync is never set by a step but a reset, and is cleared only by an operation that ends in a read's error.
(10_state.md section 6 (R39), 60_exceptions.md section 4 (R191)) -/
def Obligations.OnlyFailedReadsClearTheGhostFlag : Prop :=
  ∀ s t : State, step s = .next t → (∀ args, s.owner ≠ some (.reset args)) →
    (t.rxSync = true → s.rxSync = true) ∧
    (s.rxSync = true → t.rxSync = false → t.phase = .idle ∧
      (t.results = s.results ++ [.error .shortRead] ∨ t.results = s.results ++ [.error .transport]) ∧
      ((∃ q, s.phase = .rx q) ∨
        (s.phase = .idle ∧ s.transport.closed = false ∧ s.transport.writeAnswers.head? = some .ok ∧
          ∃ (op : InFlight) (q : Query), op.query? = some q ∧ t.txTrace = s.txTrace ++ frame s.addrMode s.devAddr op.body)))

/-- Only setRange writes limits, only setTarget (and its SetTarget in flight) writes a target, and only of its channel.
(10_state.md section 3 (R28), 20_memory.md section 1 (R54)) -/
def Obligations.OnlyTwoOperationsWriteTheRegisterFile : Prop :=
  ∀ (i : Instr) (s t : State) (c : Fin NCH), exec i s = .next t →
    (writesEntry i ≠ some (BitVec.ofNat 8 c.val) → t.rf[c.val] = s.rf[c.val]) ∧
    ((∀ ch mn mx, i ≠ .setRange ch mn mx) →
      (t.rf[c.val]).minLimit = (s.rf[c.val]).minLimit ∧ (t.rf[c.val]).maxLimit = (s.rf[c.val]).maxLimit) ∧
    (∀ ch mn mx, i = .setRange ch mn mx → (t.rf[c.val]).target = (s.rf[c.val]).target)

/-- An operation ends with exactly one result and an idle sequencer, and has none while it is in flight. (10_state.md
section 5 (R35), 60_exceptions.md section 3 (R187)) The list of results is the model's (log entry 11). -/
def Obligations.OneResultPerOperation : Prop :=
  ∀ (i : Instr) (s t : State), exec i s = .next t →
    (t.results = s.results ∨ (t.phase = .idle ∧ ∃ r, t.results = s.results ++ [r])) ∧
    (s.phase ≠ .idle → t.phase = .idle → ∃ r, t.results = s.results ++ [r]) ∧
    (∀ r, encode i = .request r → s.phase = .idle →
      (t.phase = .idle ∧ ∃ r, t.results = s.results ++ [r]) ∨ (t.phase ≠ .idle ∧ t.results = s.results))

/-- An instruction moves along R31's transitions, those of one operation up to its waiting point taken together (log
entry 1). (10_state.md section 4 (R30, R31)) That one instruction goes through TX, from IDLE to RX or back to IDLE,
where the Transport has answered already is the model's reading. -/
def Obligations.PhaseTransitionsAreComplete : Prop :=
  ∀ (i : Instr) (s t : State), exec i s = .next t →
    (s.phase = .idle → starts i s = none → t.phase = .idle) ∧
    (∀ op, s.phase = .idle → starts i s = some op →
      t.phase = .idle ∨ t.phase = .tx op ∨ ∃ q, op.query? = some q ∧ t.phase = .rx q) ∧
    (∀ op, s.phase = .tx op → t.phase = .tx op ∨ t.phase = .idle ∨ ∃ q, op.query? = some q ∧ t.phase = .rx q) ∧
    (∀ q, s.phase = .rx q → t.phase = .rx q ∨ t.phase = .idle)

/-- An operation that ends in an error has written no register-file field. (60_exceptions.md section 4 (R191)) -/
def Obligations.ErrorsLeaveTheRegisterFile : Prop :=
  (∀ (i : Instr) (s t : State) (e : OpError), exec i s = .next t → t.results = s.results ++ [.error e] →
    t.rf = s.rf ∧ t.devAddr = s.devAddr ∧ t.addrMode = s.addrMode ∧ t.phase = .idle) ∧
  (∀ (s t : State) (e : OpError), s.owner = none → step s = .next t → t.results = s.results ++ [.error e] →
    t.rf = s.rf ∧ t.devAddr = s.devAddr ∧ t.addrMode = s.addrMode ∧ t.phase = .idle)

/-- The clamp: absent bounds, one bound, both bounds, its range and its idempotence; open on an inverted range. (R154) -/
def Obligations.ClampIsTheSoftLimit : Prop :=
  ∀ lo hi v : U16,
    (lo = 0 → hi = 0 → clamp lo hi v = v) ∧
    (lo ≠ 0 → hi = 0 → (clamp lo hi v).toNat = max v.toNat lo.toNat) ∧
    (lo = 0 → hi ≠ 0 → (clamp lo hi v).toNat = min v.toNat hi.toNat) ∧
    (lo ≠ 0 → hi ≠ 0 → lo.toNat ≤ hi.toNat →
      (clamp lo hi v).toNat = min (max v.toNat lo.toNat) hi.toNat ∧
      lo.toNat ≤ (clamp lo hi v).toNat ∧ (clamp lo hi v).toNat ≤ hi.toNat) ∧
    (¬ (lo ≠ 0 ∧ hi ≠ 0 ∧ hi.toNat < lo.toNat) →
      (clamp lo hi v = v ∨ clamp lo hi v = lo ∨ clamp lo hi v = hi) ∧ clamp lo hi (clamp lo hi v) = clamp lo hi v) ∧
    (¬ (lo ≠ 0 ∧ hi ≠ 0 ∧ hi.toNat < lo.toNat) →
      clamp lo hi v =
        if lo ≠ 0 ∧ (if hi ≠ 0 ∧ hi.toNat < v.toNat then hi else v).toNat < lo.toNat then lo
        else if hi ≠ 0 ∧ hi.toNat < v.toNat then hi else v) ∧
    (lo ≠ 0 → hi ≠ 0 → hi.toNat < lo.toNat → clamp lo hi v = Config.clampInverted lo hi v)

/-- A register-file field reads as last written, whole, and every other field is left alone; from reset it reads 0.
(R51, R52) -/
def Obligations.RegisterFileReadsWhatWasWritten : Prop :=
  (∀ (s : State) (c d : Fin NCH) (v mn mx : U16),
    ((s.writeTarget c v).entry c).target = v ∧
    ((s.writeTarget c v).entry c).minLimit = (s.entry c).minLimit ∧
    ((s.writeTarget c v).entry c).maxLimit = (s.entry c).maxLimit ∧
    (d ≠ c → (s.writeTarget c v).entry d = s.entry d) ∧
    ((s.writeLimits c mn mx).entry c).minLimit = mn ∧
    ((s.writeLimits c mn mx).entry c).maxLimit = mx ∧
    ((s.writeLimits c mn mx).entry c).target = (s.entry c).target ∧
    (d ≠ c → (s.writeLimits c mn mx).entry d = s.entry d)) ∧
  (∀ (args : ResetArgs) (tr : Transport) (rs : List Request) (c : Fin NCH),
    (State.construct args tr rs).entry c = { target := 0, minLimit := 0, maxLimit := 0 })

/-- The status codes, and which results carry data. (R36) -/
def Obligations.StatusCodesAndData : Prop :=
  Result.ok.status = 0 ∧ (∀ p, (Result.position p).status = 0) ∧ (∀ b, (Result.bool b).status = 0) ∧
  (Result.error .transport).status = 1 ∧ (Result.error .shortRead).status = 2 ∧
  (∀ ch, (Result.error (.invalidChannel ch)).status = 3) ∧ (∀ code, (Result.error (.illegalOperation code)).status = 4) ∧
  (∀ r : Result, r.status.toNat ≤ 4) ∧
  (∀ p, (Result.position p).data = some p) ∧ (Result.bool true).data = some 1 ∧ (Result.bool false).data = some 0 ∧
  Result.ok.data = none ∧ (∀ e, (Result.error e).data = none)

/-- No instruction's behaviour depends on the results, errors among them, of earlier operations. (60_exceptions.md
sections 4 and 5 (R193, R194)) -/
def Obligations.EarlierResultsDoNotMatter : Prop :=
  ∀ (i : Instr) (s : State) (earlier : List Result),
    ∃ (t : State) (new : List Result), exec i s = .next t ∧ t.results = s.results ++ new ∧
      exec i { s with results := earlier } = .next { t with results := earlier ++ new }

/-- The commands without response do the same whatever bytes and answers wait on the receive side.
(70_reset_and_hazards.md section 3 (R227), 20_memory.md section 2 (R59)) -/
def Obligations.CommandsIgnoreTheResponseStream : Prop :=
  ∀ (ch n : Byte) (a b : U16) (s : State) (rx : List Byte) (rs : List ReadAnswer),
    ∀ i ∈ [Instr.setRange ch a b, .setTarget ch a, .setSpeed ch a, .setAccel ch a, .runScriptSubroutine n, .stopScript],
      s.phase = .idle →
      ∃ t, exec i s = .next t ∧
        t.transport.rxStream = s.transport.rxStream ∧ t.transport.readAnswers = s.transport.readAnswers ∧
        exec i { s with transport := { s.transport with rxStream := rx, readAnswers := rs } } =
          .next { t with transport := { t.transport with rxStream := rx, readAnswers := rs } }

/-- Where the Transport applies no deadline, no step ends an operation in ShortReadError. (00_scope.md section 3 (R9),
20_memory.md section 2 (R63), 92_eei_decisions.md D9) How a deadline shows in the Transport's answers is the model's
choice (log entry 5). -/
def Obligations.NoDeadlineMeansNoShortRead : Prop :=
  ∀ s t : State, s.owner = none → s.transport.RespectsDeadline none → step s = .next t →
    t.results ≠ s.results ++ [.error .shortRead] ∧ t.transport.RespectsDeadline none

/-- setRange and the reserved codes touch no stream; setRange changes only its entry's limits, the others no entry.
(42_channel_controller.md sections 2 and 5 (R150, R166), 42_channel_controller.md section 6 (R167)) -/
def Obligations.SetRangeAndReservedFrame : Prop :=
  (∀ (ch : Byte) (mn mx : U16) (s t : State), exec (.setRange ch mn mx) s = .next t →
    t.devAddr = s.devAddr ∧ t.addrMode = s.addrMode ∧ t.requests = s.requests ∧ t.owner = s.owner ∧
    t.phase = s.phase ∧ t.txTrace = s.txTrace ∧ t.transport = s.transport ∧ t.rxSync = s.rxSync ∧
    (∀ c : Fin NCH, (t.rf[c.val]).target = (s.rf[c.val]).target) ∧
    (∀ c : Fin NCH, c.val ≠ ch.toNat → t.rf[c.val] = s.rf[c.val])) ∧
  (∀ s t : State, ∀ i ∈ [Instr.reserved9, .reservedA, .reservedB, .reservedC, .reservedD, .reservedE, .reservedF],
    exec i s = .next t →
    t.devAddr = s.devAddr ∧ t.addrMode = s.addrMode ∧ t.requests = s.requests ∧ t.owner = s.owner ∧
    t.phase = s.phase ∧ t.txTrace = s.txTrace ∧ t.transport = s.transport ∧ t.rxSync = s.rxSync ∧ t.rf = s.rf)

/-- setTarget reads no response and changes no limit, no other channel and no configuration. (42_channel_controller.md
section 2 (R152), 42_channel_controller.md section 6 (R167)) -/
def Obligations.SetTargetFrame : Prop :=
  ∀ (ch : Byte) (v : U16) (s t : State), exec (.setTarget ch v) s = .next t →
    t.devAddr = s.devAddr ∧ t.addrMode = s.addrMode ∧ t.requests = s.requests ∧ t.owner = s.owner ∧
    t.transport.rxStream = s.transport.rxStream ∧ t.transport.readAnswers = s.transport.readAnswers ∧
    t.transport.closed = s.transport.closed ∧ t.rxSync = s.rxSync ∧
    (∀ c : Fin NCH, (t.rf[c.val]).minLimit = (s.rf[c.val]).minLimit ∧ (t.rf[c.val]).maxLimit = (s.rf[c.val]).maxLimit) ∧
    (∀ c : Fin NCH, c.val ≠ ch.toNat → t.rf[c.val] = s.rf[c.val])

/-- The pass-through commands and the queries change no register-file field; the former read no response.
(42_channel_controller.md sections 3 and 4, 42_channel_controller.md section 6 (R167)) -/
def Obligations.PassThroughAndQueryFrame : Prop :=
  (∀ (ch n : Byte) (v : U16) (s t : State),
    ∀ i ∈ [Instr.setSpeed ch v, .setAccel ch v, .runScriptSubroutine n, .stopScript], exec i s = .next t →
    t.devAddr = s.devAddr ∧ t.addrMode = s.addrMode ∧ t.requests = s.requests ∧ t.owner = s.owner ∧ t.rf = s.rf ∧
    t.rxSync = s.rxSync ∧ t.transport.rxStream = s.transport.rxStream ∧
    t.transport.readAnswers = s.transport.readAnswers ∧ t.transport.closed = s.transport.closed) ∧
  (∀ (ch : Byte) (s t : State), ∀ i ∈ [Instr.getPosition ch, .isMoving ch, .getMovingState], exec i s = .next t →
    t.devAddr = s.devAddr ∧ t.addrMode = s.addrMode ∧ t.requests = s.requests ∧ t.owner = s.owner ∧ t.rf = s.rf ∧
    t.transport.closed = s.transport.closed ∧ t.transport.rxStream <:+ s.transport.rxStream)

/-- A wire command touches no receive state and at most its channel's target; a response touches no send state.
(40_framecodec_encode.md section 1 (R128), 41_framecodec_decode.md (R142), 20_memory.md section 1 (R54, R55)) The
levels of wire command and response are the model's reading (log entry 1). -/
def Obligations.WireAndResponseFrame : Prop :=
  (∀ (i : Instr) (body : List Byte) (s t : State), encode i = .body body → exec i s = .next t →
    t.devAddr = s.devAddr ∧ t.addrMode = s.addrMode ∧ t.requests = s.requests ∧ t.owner = s.owner ∧
    t.rxSync = s.rxSync ∧ t.transport.rxStream = s.transport.rxStream ∧
    t.transport.readAnswers = s.transport.readAnswers ∧ t.transport.closed = s.transport.closed ∧
    ((∀ ch v, i ≠ .wireSetTarget ch v) → t.rf = s.rf) ∧
    (∀ ch v, i = .wireSetTarget ch v → ∀ c : Fin NCH,
      (t.rf[c.val]).minLimit = (s.rf[c.val]).minLimit ∧ (t.rf[c.val]).maxLimit = (s.rf[c.val]).maxLimit ∧
      (c.val ≠ ch.toNat → t.rf[c.val] = s.rf[c.val]))) ∧
  (∀ (i : Instr) (bytes : List Byte) (s t : State), encode i = .response bytes → exec i s = .next t →
    t.devAddr = s.devAddr ∧ t.addrMode = s.addrMode ∧ t.requests = s.requests ∧ t.owner = s.owner ∧
    t.txTrace = s.txTrace ∧ t.transport.writeAnswers = s.transport.writeAnswers ∧
    t.transport.closed = s.transport.closed ∧ t.rxSync = s.rxSync ∧ t.rf = s.rf)
end

