-- ==== Sys2Proof/Laws/Decode.lean ====
section
/-! SUPPORT. The arithmetic of the two packings, and how the body decoder reads each format. -/

namespace Sys2Proof

theorem and_0x7F_toNat (w : U16) : (w &&& 0x7F).toNat = w.toNat % 128 := by
  rw [BitVec.toNat_and]
  exact Nat.and_two_pow_sub_one_eq_mod w.toNat 7

theorem and_0x3FFF_toNat (w : U16) : (w &&& 0x3FFF).toNat = w.toNat % 16384 := by
  rw [BitVec.toNat_and]
  exact Nat.and_two_pow_sub_one_eq_mod w.toNat 14

theorem split7_fst_toNat (v : U16) : (split7 v).1.toNat = v.toNat % 128 := by
  simp only [split7, BitVec.toNat_setWidth, and_0x7F_toNat]
  omega

theorem split7_snd_toNat (v : U16) : (split7 v).2.toNat = v.toNat / 128 % 128 := by
  simp only [split7, BitVec.toNat_setWidth, and_0x7F_toNat, BitVec.toNat_ushiftRight, Nat.shiftRight_eq_div_pow]
  omega

theorem join7_toNat {lsb msb : Byte} (hl : lsb.toNat < 128) (hm : msb.toNat < 128) :
    (join7 lsb msb).toNat = 128 * msb.toNat + lsb.toNat := by
  have h := Nat.shiftLeft_add_eq_or_of_lt (i := 7) (b := lsb.toNat) (by simpa using hl) msb.toNat
  simp [join7, Nat.shiftLeft_eq] at *
  rw [Nat.mod_eq_of_lt (a := lsb.toNat) (by omega), Nat.mod_eq_of_lt (a := msb.toNat * 128) (by omega), ← h]
  omega

theorem decPosition_toNat (b0 b1 : Byte) : (decPosition b0 b1).toNat = 256 * b1.toNat + b0.toNat := by
  have h0 := b0.isLt
  have h1 := b1.isLt
  have h := Nat.shiftLeft_add_eq_or_of_lt (i := 8) (b := b0.toNat) (by simpa using h0) b1.toNat
  simp [decPosition, Nat.shiftLeft_eq] at *
  rw [Nat.mod_eq_of_lt (a := b0.toNat) (by omega), Nat.mod_eq_of_lt (a := b1.toNat * 256) (by omega), ← h]
  omega

theorem decodeB4_ok (make : Byte → U16 → Instr) (ch lsb msb : Byte) (rest : List Byte)
    (hl : lsb.toNat < 128) (hm : msb.toNat < 128) :
    decodeB4 make (ch :: lsb :: msb :: rest) = .ok (make ch (join7 lsb msb), rest) := by
  simp [decodeB4, BitVec.msb_eq_decide]
  omega

/-- The decoder reads what the split of any value wrote as the value's low 14 bits. -/
theorem decodeB4_split7 (make : Byte → U16 → Instr) (ch : Byte) (v : U16) (rest : List Byte) :
    decodeB4 make (ch :: (split7 v).1 :: (split7 v).2 :: rest) = .ok (make ch (v &&& 0x3FFF), rest) := by
  have hl := split7_fst_toNat v
  have hm := split7_snd_toNat v
  rw [decodeB4_ok _ _ _ _ _ (by omega) (by omega)]
  have : join7 (split7 v).1 (split7 v).2 = v &&& 0x3FFF := by
    apply BitVec.eq_of_toNat_eq
    rw [join7_toNat (by omega) (by omega), and_0x3FFF_toNat]
    omega
  rw [this]

/-- The sixteen select codes (R34). -/
theorem opCode_cases (op : OpCode) :
    op = 0x0 ∨ op = 0x1 ∨ op = 0x2 ∨ op = 0x3 ∨ op = 0x4 ∨ op = 0x5 ∨ op = 0x6 ∨ op = 0x7 ∨
    op = 0x8 ∨ op = 0x9 ∨ op = 0xA ∨ op = 0xB ∨ op = 0xC ∨ op = 0xD ∨ op = 0xE ∨ op = 0xF := by
  revert op
  decide

end Sys2Proof
end

