-- ==== Sys2Proof/Laws/State.lean ====
section
/-! SUPPORT. What each shared operation does to each field of the state, one lemma per field, by rfl. -/

namespace Sys2Proof.Machine

variable (s : State) (c : Fin NCH) (r : Result) (e : OpError) (v mn mx : U16)

/-! ## `finish` and `raise` -/

@[simp] theorem finish_devAddr : (finish r s).devAddr = s.devAddr := rfl
@[simp] theorem finish_addrMode : (finish r s).addrMode = s.addrMode := rfl
@[simp] theorem finish_rf : (finish r s).rf = s.rf := rfl
@[simp] theorem finish_phase : (finish r s).phase = .idle := rfl
@[simp] theorem finish_txTrace : (finish r s).txTrace = s.txTrace := rfl
@[simp] theorem finish_transport : (finish r s).transport = s.transport := rfl
@[simp] theorem finish_rxSync : (finish r s).rxSync = s.rxSync := rfl
@[simp] theorem finish_requests : (finish r s).requests = s.requests := rfl
@[simp] theorem finish_results : (finish r s).results = s.results ++ [r] := rfl
@[simp] theorem finish_owner : (finish r s).owner = s.owner := rfl
@[simp] theorem raise_eq : raise e s = finish (.error e) s := rfl

/-! ## Register-file writes -/

@[simp] theorem writeTarget_devAddr : (s.writeTarget c v).devAddr = s.devAddr := rfl
@[simp] theorem writeTarget_addrMode : (s.writeTarget c v).addrMode = s.addrMode := rfl
@[simp] theorem writeTarget_rf :
    (s.writeTarget c v).rf = s.rf.set c.val { s.rf[c.val] with target := v } := rfl
@[simp] theorem writeTarget_phase : (s.writeTarget c v).phase = s.phase := rfl
@[simp] theorem writeTarget_txTrace : (s.writeTarget c v).txTrace = s.txTrace := rfl
@[simp] theorem writeTarget_transport : (s.writeTarget c v).transport = s.transport := rfl
@[simp] theorem writeTarget_rxSync : (s.writeTarget c v).rxSync = s.rxSync := rfl
@[simp] theorem writeTarget_requests : (s.writeTarget c v).requests = s.requests := rfl
@[simp] theorem writeTarget_results : (s.writeTarget c v).results = s.results := rfl
@[simp] theorem writeTarget_owner : (s.writeTarget c v).owner = s.owner := rfl

@[simp] theorem writeLimits_devAddr : (s.writeLimits c mn mx).devAddr = s.devAddr := rfl
@[simp] theorem writeLimits_addrMode : (s.writeLimits c mn mx).addrMode = s.addrMode := rfl
@[simp] theorem writeLimits_rf :
    (s.writeLimits c mn mx).rf = s.rf.set c.val { s.rf[c.val] with minLimit := mn, maxLimit := mx } := rfl
@[simp] theorem writeLimits_phase : (s.writeLimits c mn mx).phase = s.phase := rfl
@[simp] theorem writeLimits_txTrace : (s.writeLimits c mn mx).txTrace = s.txTrace := rfl
@[simp] theorem writeLimits_transport : (s.writeLimits c mn mx).transport = s.transport := rfl
@[simp] theorem writeLimits_rxSync : (s.writeLimits c mn mx).rxSync = s.rxSync := rfl
@[simp] theorem writeLimits_requests : (s.writeLimits c mn mx).requests = s.requests := rfl
@[simp] theorem writeLimits_results : (s.writeLimits c mn mx).results = s.results := rfl
@[simp] theorem writeLimits_owner : (s.writeLimits c mn mx).owner = s.owner := rfl

/-! ## Construction -/

variable (args : ResetArgs) (tr : Transport) (rs : List Request)

@[simp] theorem construct_phase : (State.construct args tr rs).phase = .idle := rfl
@[simp] theorem construct_txTrace : (State.construct args tr rs).txTrace = [] := rfl
@[simp] theorem construct_rxSync : (State.construct args tr rs).rxSync = true := rfl
@[simp] theorem construct_results : (State.construct args tr rs).results = [] := rfl
@[simp] theorem construct_requests : (State.construct args tr rs).requests = rs := rfl
@[simp] theorem construct_owner : (State.construct args tr rs).owner = none := rfl
@[simp] theorem construct_addrMode : (State.construct args tr rs).addrMode = args.addrMode := rfl
@[simp] theorem construct_devAddr : (State.construct args tr rs).devAddr = args.devAddr.getD defaultDevAddr := rfl
@[simp] theorem construct_transport : (State.construct args tr rs).transport = args.transport.getD tr := rfl

end Sys2Proof.Machine
end

