-- ==== Sys2Proof/Laws/Operands.lean ====
section
/-! SUPPORT. What the operand forms answer: the channel check, the checked channel's byte, register-file entries. -/

namespace Sys2Proof.Machine

theorem checkChannel_of_lt {ch : Byte} (h : ch.toNat < NCH) : checkChannel ch = some ⟨ch.toNat, h⟩ := by
  simp [checkChannel, h]

theorem checkChannel_of_gt {ch : Byte} (h : 23 < ch.toNat) : checkChannel ch = none := by
  have : ¬ ch.toNat < 24 := by omega
  simp [checkChannel, NCH, this]

/-- All `checkChannel` can answer. -/
theorem checkChannel_cases (ch : Byte) :
    (∃ c : Fin NCH, ch.toNat = c.val ∧ checkChannel ch = some c) ∨ (23 < ch.toNat ∧ checkChannel ch = none) := by
  by_cases h : ch.toNat < NCH
  · exact .inl ⟨⟨ch.toNat, h⟩, rfl, checkChannel_of_lt h⟩
  · exact .inr ⟨by unfold NCH at h; omega, by simp [checkChannel, h]⟩

theorem checkChannel_eq_some {ch : Byte} {c : Fin NCH} : checkChannel ch = some c ↔ ch.toNat = c.val := by
  constructor
  · intro h
    obtain ⟨d, hd, h'⟩ | ⟨_, h'⟩ := checkChannel_cases ch
    · rw [h'] at h; cases h; exact hd
    · rw [h'] at h; cases h
  · intro h
    have hc : ch.toNat < NCH := h ▸ c.isLt
    simp [checkChannel_of_lt hc, h]

@[simp] theorem channelByte_toNat (c : Fin NCH) : (channelByte c).toNat = c.val := by
  have := c.isLt
  simp [channelByte, NCH] at *
  omega

theorem channelByte_eq_iff {c : Fin NCH} {ch : Byte} : channelByte c = ch ↔ ch.toNat = c.val := by
  constructor
  · rintro rfl; exact channelByte_toNat c
  · intro h; exact BitVec.eq_of_toNat_eq (by rw [channelByte_toNat, h])

@[simp] theorem checkChannel_channelByte (c : Fin NCH) : checkChannel (channelByte c) = some c :=
  checkChannel_eq_some.2 (channelByte_toNat c)

/-! ## Register-file entries -/

theorem entry_writeTarget_same (s : State) (c : Fin NCH) (v : U16) :
    (s.writeTarget c v).entry c = { s.entry c with target := v } := by
  simp [State.entry]

theorem entry_writeTarget_other (s : State) {c d : Fin NCH} (v : U16) (h : d ≠ c) :
    (s.writeTarget c v).entry d = s.entry d := by
  have : c.val ≠ d.val := fun h' => h (Fin.ext h'.symm)
  simp [State.entry, this]

theorem entry_writeLimits_same (s : State) (c : Fin NCH) (mn mx : U16) :
    (s.writeLimits c mn mx).entry c = { s.entry c with minLimit := mn, maxLimit := mx } := by
  simp [State.entry]

theorem entry_writeLimits_other (s : State) {c d : Fin NCH} (mn mx : U16) (h : d ≠ c) :
    (s.writeLimits c mn mx).entry d = s.entry d := by
  have : c.val ≠ d.val := fun h' => h (Fin.ext h'.symm)
  simp [State.entry, this]

end Sys2Proof.Machine
end

