-- ==== Sys2Proof/Laws/Ops.lean ====
section
/-! SUPPORT. What each shared operation can do, said once: the Transport primitives, the TX and RX phases, accepting a
request, the channel check, the levels below the request port. -/

namespace Sys2Proof.Machine

/-! ## The Transport's answers -/

theorem writeAnswer_open {s : State} (h : s.transport.closed = false) :
    s.writeAnswer = s.transport.writeAnswers.head? := by simp [State.writeAnswer, h]

theorem writeAnswer_closed {s : State} (h : s.transport.closed = true) : s.writeAnswer = some (.ioFail 0) := by
  simp [State.writeAnswer, h]

theorem readAnswer_open {s : State} (h : s.transport.closed = false) :
    s.readAnswer = s.transport.readAnswers.head? := by simp [State.readAnswer, h]

theorem readAnswer_closed {s : State} (h : s.transport.closed = true) : s.readAnswer = some (.ioFail 0) := by
  simp [State.readAnswer, h]

/-! ## The TX phase -/

/-- The state once a write has put `bytes` on the wire. -/
def sentState (bytes : List Byte) (s : State) : State :=
  { s with
    txTrace := s.txTrace ++ bytes
    transport := { s.transport with writeAnswers := s.transport.writeAnswers.tail } }

theorem transmit_waiting {s : State} (h : s.writeAnswer = none) : transmit s = s := by
  unfold transmit
  cases s.phase <;> simp [txWrite, h]

theorem transmit_ok {s : State} {op : InFlight} (hp : s.phase = .tx op) (h : s.writeAnswer = some .ok) :
    transmit s = afterWrite op (sentState (frame s.addrMode s.devAddr op.body) s) := by
  simp [transmit, hp, txWrite, h, sentState]

theorem transmit_ioFail {s : State} {op : InFlight} {n : Nat} (hp : s.phase = .tx op)
    (h : s.writeAnswer = some (.ioFail n)) :
    transmit s = finish (.error .transport) (sentState ((frame s.addrMode s.devAddr op.body).take n) s) := by
  simp [transmit, hp, txWrite, h, sentState]

theorem transmit_other {s : State} (h : ∀ op, s.phase ≠ .tx op) : transmit s = s := by
  unfold transmit
  cases hp : s.phase with
  | tx op => exact absurd hp (h op)
  | idle => rfl
  | rx q => rfl

/-- All the TX phase can do. -/
theorem transmit_cases (s : State) :
    transmit s = s ∨
    (∃ op, s.phase = .tx op ∧ s.writeAnswer = some .ok ∧
      transmit s = afterWrite op (sentState (frame s.addrMode s.devAddr op.body) s)) ∨
    (∃ op n, s.phase = .tx op ∧ s.writeAnswer = some (.ioFail n) ∧
      transmit s = finish (.error .transport) (sentState ((frame s.addrMode s.devAddr op.body).take n) s)) := by
  cases hp : s.phase with
  | idle => exact .inl (transmit_other (by simp [hp]))
  | rx q => exact .inl (transmit_other (by simp [hp]))
  | tx op =>
    cases ha : s.writeAnswer with
    | none => exact .inl (transmit_waiting ha)
    | some a =>
      cases a with
      | ok => exact .inr (.inl ⟨op, rfl, rfl, transmit_ok hp ha⟩)
      | ioFail n => exact .inr (.inr ⟨op, n, rfl, rfl, transmit_ioFail hp ha⟩)

/-- All that follows a completed write. -/
theorem afterWrite_cases (op : InFlight) (s : State) :
    (∃ c t, op = .setTarget c t ∧ afterWrite op s = finish .ok (s.writeTarget c t)) ∨
    ((∀ c t, op ≠ .setTarget c t) ∧ afterWrite op s = finish .ok s) ∨
    (∃ q : Query, (∀ c t, op ≠ .setTarget c t) ∧ afterWrite op s = { s with phase := .rx q }) := by
  cases op <;> simp [afterWrite]

/-! ## The RX phase -/

/-- The state once a read has taken `j` bytes from the stream. -/
def takenState (j : Nat) (s : State) : State :=
  { s with transport := { s.transport with
      rxStream := s.transport.rxStream.drop j
      readAnswers := s.transport.readAnswers.tail } }

theorem receive_other {s : State} (h : ∀ q, s.phase ≠ .rx q) : receive s = s := by
  unfold receive
  cases hp : s.phase with
  | rx q => exact absurd hp (h q)
  | idle => rfl
  | tx op => rfl

theorem receive_waiting {s : State} (h : s.readAnswer = none) : receive s = s := by
  unfold receive
  cases s.phase <;> simp [rxRead, h]

theorem receive_ok {s : State} {q : Query} (hp : s.phase = .rx q) (h : s.readAnswer = some .ok)
    (hn : q.size ≤ s.transport.rxStream.length) :
    receive s = finish (q.result (s.transport.rxStream.take q.size)) (takenState q.size s) := by
  simp [receive, hp, rxRead, h, hn, takenState]

theorem receive_tooFew {s : State} {q : Query} (hp : s.phase = .rx q) (h : s.readAnswer = some .ok)
    (hn : s.transport.rxStream.length < q.size) : receive s = s := by
  simp [receive, hp, rxRead, h, Nat.not_le.2 hn]

theorem receive_short {s : State} {q : Query} {k j : Nat} (hp : s.phase = .rx q)
    (h : s.readAnswer = some (.short k j)) :
    receive s = finish (.error .shortRead) { takenState (shortTaken q.size k j) s with rxSync := false } := by
  simp [receive, hp, rxRead, h, takenState]

theorem receive_ioFail {s : State} {q : Query} {j : Nat} (hp : s.phase = .rx q)
    (h : s.readAnswer = some (.ioFail j)) :
    receive s = finish (.error .transport) { takenState j s with rxSync := false } := by
  simp [receive, hp, rxRead, h, takenState]

/-- All the RX phase can do. -/
theorem receive_cases (s : State) :
    receive s = s ∨
    (∃ q, s.phase = .rx q ∧ s.readAnswer = some .ok ∧ q.size ≤ s.transport.rxStream.length ∧
      receive s = finish (q.result (s.transport.rxStream.take q.size)) (takenState q.size s)) ∨
    (∃ q k j, s.phase = .rx q ∧ s.readAnswer = some (.short k j) ∧
      receive s = finish (.error .shortRead) { takenState (shortTaken q.size k j) s with rxSync := false }) ∨
    (∃ q j, s.phase = .rx q ∧ s.readAnswer = some (.ioFail j) ∧
      receive s = finish (.error .transport) { takenState j s with rxSync := false }) := by
  cases hp : s.phase with
  | idle => exact .inl (receive_other (by simp [hp]))
  | tx op => exact .inl (receive_other (by simp [hp]))
  | rx q =>
    cases ha : s.readAnswer with
    | none => exact .inl (receive_waiting ha)
    | some a =>
      cases a with
      | ok =>
        by_cases hn : q.size ≤ s.transport.rxStream.length
        · exact .inr (.inl ⟨q, rfl, rfl, hn, receive_ok hp ha hn⟩)
        · exact .inl (receive_tooFew hp ha (by omega))
      | short k j => exact .inr (.inr (.inl ⟨q, k, j, rfl, rfl, receive_short hp ha⟩))
      | ioFail j => exact .inr (.inr (.inr ⟨q, j, rfl, rfl, receive_ioFail hp ha⟩))

/-- The results of the queries are no errors: an error of a read is never made from bytes. -/
theorem result_ne_error (q : Query) (bytes : List Byte) (e : OpError) : q.result bytes ≠ .error e := by
  cases q <;> simp [Query.result]

/-- The response about to be returned is the front of the stream, and is returned only on an OK answer. -/
theorem arriving_eq_some {s : State} {bytes : List Byte} :
    s.arriving = some bytes ↔ ∃ q, s.phase = .rx q ∧ s.readAnswer = some .ok ∧
      q.size ≤ s.transport.rxStream.length ∧ bytes = s.transport.rxStream.take q.size := by
  unfold State.arriving
  cases hp : s.phase with
  | idle => simp
  | tx op => simp
  | rx q =>
    cases ha : s.readAnswer with
    | none => simp [rxRead, ha]
    | some a =>
      cases a with
      | ok =>
        by_cases hn : q.size ≤ s.transport.rxStream.length
        · simp [rxRead, ha, hn, eq_comm]
        · simp [rxRead, ha, hn]
      | short k j => simp [rxRead, ha]
      | ioFail j => simp [rxRead, ha]

/-! ## Accepting a request -/

theorem accept_idle {s : State} {f : State → State} (h : s.phase = .idle) : accept s f = f s := by
  simp [accept, h]

theorem accept_busy {s : State} {f : State → State} (h : s.phase ≠ .idle) : accept s f = s := by
  unfold accept
  cases hp : s.phase with
  | idle => exact absurd hp h
  | tx op => rfl
  | rx q => rfl

/-- All `accept` can do. -/
theorem accept_cases (s : State) (f : State → State) :
    (s.phase = .idle ∧ accept s f = f s) ∨ (s.phase ≠ .idle ∧ accept s f = s) := by
  by_cases h : s.phase = .idle
  · exact .inl ⟨h, accept_idle h⟩
  · exact .inr ⟨h, accept_busy h⟩

theorem withChannel_valid {ch : Byte} {c : Fin NCH} {f : Fin NCH → State → State} {s : State}
    (h : ch.toNat = c.val) : withChannel ch f s = f c s := by
  simp [withChannel, checkChannel_eq_some.2 h]

theorem withChannel_invalid {ch : Byte} {f : Fin NCH → State → State} {s : State} (h : 23 < ch.toNat) :
    withChannel ch f s = finish (.error (.invalidChannel ch)) s := by
  simp [withChannel, checkChannel_of_gt h]

/-- All `withChannel` can do. -/
theorem withChannel_cases (ch : Byte) (f : Fin NCH → State → State) (s : State) :
    (∃ c : Fin NCH, ch.toNat = c.val ∧ checkChannel ch = some c ∧ withChannel ch f s = f c s) ∨
    (23 < ch.toNat ∧ checkChannel ch = none ∧ withChannel ch f s = finish (.error (.invalidChannel ch)) s) := by
  obtain ⟨c, hc, h⟩ | ⟨hgt, h⟩ := checkChannel_cases ch
  · exact .inl ⟨c, hc, h, withChannel_valid hc⟩
  · exact .inr ⟨hgt, h, withChannel_invalid hgt⟩

/-! ## The levels below the request port -/

theorem sendBody_inFlight {s : State} {op : InFlight} {body : List Byte} (hp : s.phase = .tx op)
    (hb : op.body = body) : sendBody body s = transmit s := by
  simp [sendBody, hp, hb]

theorem sendBody_other {s : State} {body : List Byte} (h : ∀ op, s.phase = .tx op → op.body ≠ body) :
    sendBody body s = s := by
  unfold sendBody
  cases hp : s.phase with
  | tx op => simp [h op hp]
  | idle => rfl
  | rx q => rfl

/-- All `sendBody` can do. -/
theorem sendBody_cases (body : List Byte) (s : State) :
    sendBody body s = s ∨ ∃ op, s.phase = .tx op ∧ op.body = body ∧ sendBody body s = transmit s := by
  by_cases h : ∀ op, s.phase = .tx op → op.body ≠ body
  · exact .inl (sendBody_other h)
  · push Not at h
    obtain ⟨op, hp, hb⟩ := h
    exact .inr ⟨op, hp, hb, sendBody_inFlight hp hb⟩

/-- All `takeResponse` can do. -/
theorem takeResponse_cases (bytes : List Byte) (s : State) :
    takeResponse bytes s = s ∨ (s.arriving = some bytes ∧ takeResponse bytes s = receive s) := by
  by_cases h : s.arriving = some bytes
  · exact .inr ⟨h, by simp [takeResponse, h]⟩
  · exact .inl (by simp [takeResponse, h])

end Sys2Proof.Machine
end

