-- ==== Sys2Proof/Laws/Exec.lean ====
section
/-! SUPPORT. What `exec` and `step` can do, said once over the shared operations. -/

namespace Sys2Proof.Machine

/-- The errors and the answer an operation can end with before it touches the Transport. -/
def EndsAtOnce (i : Instr) (s : State) (r : Result) : Prop :=
  (∃ ch, channelOperand i = some ch ∧ 23 < ch.toNat ∧ r = .error (.invalidChannel ch)) ∨
  (∃ code, r = .error (.illegalOperation code)) ∨
  (∃ ch c, i = .isMoving ch ∧ ch.toNat = c.val ∧ (s.entry c).target = 0 ∧ r = .bool false)

/-- All `exec` can do, one constructor a way. -/
inductive ExecDoes (i : Instr) (s : State) : State → Prop where
  | nothing : ExecDoes i s s
  | endsAtOnce (r : Result) : s.phase = .idle → starts i s = none → EndsAtOnce i s r → ExecDoes i s (finish r s)
  | setsRange (ch : Byte) (c : Fin NCH) (mn mx : U16) : s.phase = .idle → i = .setRange ch mn mx → ch.toNat = c.val →
      ExecDoes i s (finish .ok (s.writeLimits c mn mx))
  | performs (op : InFlight) : s.phase = .idle → starts i s = some op → ExecDoes i s (perform op s)
  | transmits (op : InFlight) : s.phase = .tx op → encode i = .body op.body → ExecDoes i s (transmit s)
  | receives (bytes : List Byte) : s.arriving = some bytes → encode i = .response bytes → ExecDoes i s (receive s)

section
variable {i : Instr} {s : State}

theorem sendBody_does {body : List Byte} (he : encode i = .body body) : ExecDoes i s (sendBody body s) := by
  obtain h | ⟨op, hp, rfl, h⟩ := sendBody_cases body s <;> rw [h]
  · exact .nothing
  · exact .transmits op hp he

theorem takeResponse_does {bytes : List Byte} (he : encode i = .response bytes) :
    ExecDoes i s (takeResponse bytes s) := by
  obtain h | ⟨ha, h⟩ := takeResponse_cases bytes s <;> rw [h]
  · exact .nothing
  · exact .receives bytes ha he

theorem accept_does {f : State → State} (h : s.phase = .idle → ExecDoes i s (f s)) : ExecDoes i s (accept s f) := by
  obtain ⟨hp, h'⟩ | ⟨_, h'⟩ := accept_cases s f <;> rw [h']
  · exact h hp
  · exact .nothing

theorem withChannel_does {ch : Byte} {f : Fin NCH → State → State} (hp : s.phase = .idle)
    (hi : channelOperand i = some ch) (hst : checkChannel ch = none → starts i s = none)
    (h : ∀ c : Fin NCH, ch.toNat = c.val → checkChannel ch = some c → ExecDoes i s (f c s)) :
    ExecDoes i s (withChannel ch f s) := by
  obtain ⟨c, hcv, hc, h'⟩ | ⟨hgt, hc, h'⟩ := withChannel_cases ch f s <;> rw [h']
  · exact h c hcv hc
  · exact .endsAtOnce _ hp (hst hc) (.inl ⟨ch, hi, hgt, rfl⟩)

theorem sends_does {ch : Byte} {op : Fin NCH → InFlight} (hi : channelOperand i = some ch)
    (hst : starts i s = (checkChannel ch).map op) :
    ExecDoes i s (accept s (withChannel ch fun c s => perform (op c) s)) :=
  accept_does fun hp => withChannel_does hp hi (fun hc => by rw [hst, hc]; rfl)
    fun c _ hc => .performs (op c) hp (by rw [hst, hc]; rfl)

theorem illegal_does (code : OpCode) (hst : starts i s = none) :
    ExecDoes i s (accept s (raise (.illegalOperation code))) :=
  accept_does fun hp => .endsAtOnce _ hp hst (.inr (.inl ⟨code, rfl⟩))

end

/-- Every next state `exec` answers comes about in one of these ways. -/
theorem exec_does {i : Instr} {s t : State} (h : exec i s = .next t) : ExecDoes i s t := by
  cases i with
  | wireSetTarget ch v => exact Host.Outcome.next.inj h ▸ sendBody_does rfl
  | wireSetSpeed ch v => exact Host.Outcome.next.inj h ▸ sendBody_does rfl
  | wireSetAcceleration ch v => exact Host.Outcome.next.inj h ▸ sendBody_does rfl
  | wireGetPosition ch => exact Host.Outcome.next.inj h ▸ sendBody_does rfl
  | wireGetMovingState => exact Host.Outcome.next.inj h ▸ sendBody_does rfl
  | wireRunScriptSubroutine n => exact Host.Outcome.next.inj h ▸ sendBody_does rfl
  | wireStopScript => exact Host.Outcome.next.inj h ▸ sendBody_does rfl
  | positionResponse lsb msb => exact Host.Outcome.next.inj h ▸ takeResponse_does rfl
  | movingStateResponse st => exact Host.Outcome.next.inj h ▸ takeResponse_does rfl
  | setRange ch mn mx =>
    exact Host.Outcome.next.inj h ▸ accept_does fun hp => withChannel_does hp rfl (fun _ => rfl)
      fun c hcv _ => .setsRange ch c mn mx hp rfl hcv
  | setTarget ch v =>
    exact Host.Outcome.next.inj h ▸
      sends_does (op := fun c => .setTarget c (s.clampedTarget c v)) rfl rfl
  | setSpeed ch v => exact Host.Outcome.next.inj h ▸ sends_does (op := fun c => .setSpeed c v) rfl rfl
  | setAccel ch v => exact Host.Outcome.next.inj h ▸ sends_does (op := fun c => .setAccel c v) rfl rfl
  | getPosition ch => exact Host.Outcome.next.inj h ▸ sends_does (op := fun c => .getPosition c) rfl rfl
  | isMoving ch =>
    refine Host.Outcome.next.inj h ▸ accept_does fun hp => withChannel_does hp rfl (fun hc => by simp [starts, hc])
      fun c hcv hc => ?_
    by_cases h0 : (s.entry c).target = 0
    · simp only [h0, if_true]
      exact .endsAtOnce _ hp (by simp [starts, hc, h0]) (.inr (.inr ⟨ch, c, rfl, hcv, h0, rfl⟩))
    · simp only [h0, if_false]
      exact .performs _ hp (by simpa [starts, hc] using h0)
  | getMovingState => exact Host.Outcome.next.inj h ▸ accept_does fun hp => .performs _ hp rfl
  | runScriptSubroutine n => exact Host.Outcome.next.inj h ▸ accept_does fun hp => .performs _ hp rfl
  | stopScript => exact Host.Outcome.next.inj h ▸ accept_does fun hp => .performs _ hp rfl
  | reserved9 => exact Host.Outcome.next.inj h ▸ illegal_does _ rfl
  | reservedA => exact Host.Outcome.next.inj h ▸ illegal_does _ rfl
  | reservedB => exact Host.Outcome.next.inj h ▸ illegal_does _ rfl
  | reservedC => exact Host.Outcome.next.inj h ▸ illegal_does _ rfl
  | reservedD => exact Host.Outcome.next.inj h ▸ illegal_does _ rfl
  | reservedE => exact Host.Outcome.next.inj h ▸ illegal_does _ rfl
  | reservedF => exact Host.Outcome.next.inj h ▸ illegal_does _ rfl

/-- Accepting an operation that sends a frame performs it. -/
theorem exec_of_starts {i : Instr} {s : State} {op : InFlight} (hp : s.phase = .idle)
    (h : starts i s = some op) : exec i s = .next (perform op s) := by
  have chan : ∀ (ch : Byte) (mk : Fin NCH → InFlight), (checkChannel ch).map mk = some op →
      accept s (withChannel ch fun c => perform (mk c)) = perform op s := by
    intro ch mk hm
    obtain ⟨c, hc, rfl⟩ := Option.map_eq_some_iff.1 hm
    rw [accept_idle hp, withChannel_valid (checkChannel_eq_some.1 hc)]
  cases i with
  | setTarget ch v =>
    obtain ⟨c, hc, rfl⟩ := Option.map_eq_some_iff.1 h
    exact congrArg Host.Outcome.next
      ((accept_idle hp).trans (withChannel_valid (checkChannel_eq_some.1 hc)))
  | setSpeed ch v => exact congrArg Host.Outcome.next (chan ch (.setSpeed · v) h)
  | setAccel ch v => exact congrArg Host.Outcome.next (chan ch (.setAccel · v) h)
  | getPosition ch => exact congrArg Host.Outcome.next (chan ch .getPosition h)
  | isMoving ch =>
    obtain ⟨c, hcv, hc⟩ | ⟨_, hc⟩ := checkChannel_cases ch
    · simp only [starts, hc] at h
      split at h
      · cases h
      · next h0 =>
        cases h
        exact congrArg Host.Outcome.next
          ((accept_idle hp).trans ((withChannel_valid hcv).trans (by simp only [h0, if_false])))
    · simp [starts, hc] at h
  | getMovingState => cases h; exact congrArg Host.Outcome.next (accept_idle hp)
  | runScriptSubroutine n => cases h; exact congrArg Host.Outcome.next (accept_idle hp)
  | stopScript => cases h; exact congrArg Host.Outcome.next (accept_idle hp)
  | setRange ch mn mx => cases h
  | wireSetTarget ch v => cases h
  | wireSetSpeed ch v => cases h
  | wireSetAcceleration ch v => cases h
  | wireGetPosition ch => cases h
  | wireGetMovingState => cases h
  | wireRunScriptSubroutine n => cases h
  | wireStopScript => cases h
  | positionResponse lsb msb => cases h
  | movingStateResponse st => cases h
  | reserved9 => cases h
  | reservedA => cases h
  | reservedB => cases h
  | reservedC => cases h
  | reservedD => cases h
  | reservedE => cases h
  | reservedF => cases h

/-- A wire command is `sendBody` of its body. -/
theorem exec_body {i : Instr} {body : List Byte} (s : State) (h : encode i = .body body) :
    exec i s = .next (sendBody body s) := by
  cases i <;> first | (cases h; rfl) | cases h

/-- A response is `takeResponse` of its bytes. -/
theorem exec_response {i : Instr} {bytes : List Byte} (s : State) (h : encode i = .response bytes) :
    exec i s = .next (takeResponse bytes s) := by
  cases i <;> first | (cases h; rfl) | cases h

/-! ## Steps -/

/-- Every packet the sequencer takes up decodes. -/
theorem nextPacket_decodes {s : State} {p : Packet} (h : s.nextPacket = some p) : ∃ i, decode p = .ok i := by
  unfold State.nextPacket at h
  cases hp : s.phase with
  | idle =>
    simp only [hp] at h
    obtain ⟨r, _, rfl⟩ := Option.map_eq_some_iff.1 h
    exact ⟨_, rfl⟩
  | tx op =>
    simp only [hp, Option.some.injEq] at h
    subst h
    cases op <;>
      simp [InFlight.body, encSetTarget, encSetSpeed, encSetAcceleration, encGetPosition, encGetMovingState,
        encRunScriptSubroutine, encStopScript, bodyB1, bodyB2, bodyB4, decode, decodeBody, decodeB2, decodeB4_split7,
        opcSetTarget, opcSetSpeed, opcSetAcceleration, opcGetPosition, opcGetMovingState, opcRunScriptSubroutine,
        opcStopScript]
  | rx q =>
    simp only [hp] at h
    obtain ⟨bytes, hb, rfl⟩ := Option.map_eq_some_iff.1 h
    obtain ⟨q', _, _, hn, rfl⟩ := arriving_eq_some.1 hb
    match hrx : s.transport.rxStream, q' with
    | [], q' => cases q' <;> simp [hrx, Query.size] at hn
    | [a], .position => simp [hrx, Query.size] at hn
    | [a], .isMoving t => simp [hrx, Query.size] at hn
    | a :: l, .movingState => simp [decode, Query.size, decodeResponse]
    | a :: b :: l, .position => simp [decode, Query.size, decodeResponse]
    | a :: b :: l, .isMoving t => simp [decode, Query.size, decodeResponse]

/-- All a step to a next state can do. -/
theorem step_cases {s t : State} (h : step s = .next t) :
    (∃ args, s.owner = some (.reset args) ∧ s.phase = .idle ∧ t = State.construct args s.transport s.requests) ∨
    (s.owner = some .close ∧ t = { s with owner := none, transport := { s.transport with closed := true } }) ∨
    (s.owner = none ∧ s.nextPacket = none ∧ t = receive s) ∨
    (s.owner = none ∧ ∃ p i, s.nextPacket = some p ∧ decode p = .ok i ∧ exec i s.consume = .next t) := by
  unfold step at h
  cases ho : s.owner with
  | some a =>
    simp only [ho] at h
    cases a with
    | close => exact .inr (.inl ⟨rfl, by simpa [ownerAct, eq_comm] using h⟩)
    | reset args =>
      cases hp : s.phase with
      | idle => exact .inl ⟨args, rfl, rfl, by simpa [ownerAct, hp, eq_comm] using h⟩
      | tx op => simp [ownerAct, hp] at h
      | rx q => simp [ownerAct, hp] at h
  | none =>
    simp only [ho] at h
    cases hn : s.nextPacket with
    | none => exact .inr (.inr (.inl ⟨rfl, rfl, by simpa [hn, eq_comm] using h⟩))
    | some p =>
      obtain ⟨i, hi⟩ := nextPacket_decodes hn
      simp only [hn, hi] at h
      exact .inr (.inr (.inr ⟨rfl, p, i, rfl, hi, h⟩))

end Sys2Proof.Machine
end

