-- ==== Sys2Proof/Laws/PerInstr.lean ====
section
/-! SUPPORT. Statements made of every instruction, one lemma per constructor. -/

/-- What an instruction's encoding looks like (spec/30_encoding.md R82, R95, R99; spec/10_state.md R34): a command body
is one, two or four bytes long and begins with an opcode whose bit 7 is 0; a response is one or two bytes long; a
request reads back as the operation, which is no command of an operation in flight. -/
def Sys2Proof.Laws.EncodingShape.Statement (i : Sys2Proof.Instr) : Prop :=
  match Sys2Proof.encode i with
  | .body bytes => bytes.length ∈ [1, 2, 4] ∧ bytes.head?.map BitVec.msb = some false
  | .response bytes => bytes.length = 1 ∨ bytes.length = 2
  | .request r => Sys2Proof.decodeRequest r = i ∧ Sys2Proof.Machine.InFlight.ofCommand i = none

namespace Sys2Proof.Laws

theorem EncodingShape.wireSetTarget (ch : Byte) (v : U16) : EncodingShape.Statement (.wireSetTarget ch v) :=
    ⟨List.mem_of_getElem? (i := 2) rfl, rfl⟩
theorem EncodingShape.wireSetSpeed (ch : Byte) (v : U16) : EncodingShape.Statement (.wireSetSpeed ch v) :=
    ⟨List.mem_of_getElem? (i := 2) rfl, rfl⟩
theorem EncodingShape.wireSetAcceleration (ch : Byte) (v : U16) : EncodingShape.Statement (.wireSetAcceleration ch v) :=
    ⟨List.mem_of_getElem? (i := 2) rfl, rfl⟩
theorem EncodingShape.wireGetPosition (ch : Byte) : EncodingShape.Statement (.wireGetPosition ch) :=
    ⟨List.mem_of_getElem? (i := 1) rfl, rfl⟩
theorem EncodingShape.wireGetMovingState : EncodingShape.Statement (.wireGetMovingState) := ⟨by decide, rfl⟩
theorem EncodingShape.wireRunScriptSubroutine (n : Byte) : EncodingShape.Statement (.wireRunScriptSubroutine n) :=
    ⟨List.mem_of_getElem? (i := 1) rfl, rfl⟩
theorem EncodingShape.wireStopScript : EncodingShape.Statement (.wireStopScript) := ⟨by decide, rfl⟩
theorem EncodingShape.positionResponse (lsb msb : Byte) : EncodingShape.Statement (.positionResponse lsb msb) :=
    .inr rfl
theorem EncodingShape.movingStateResponse (st : Byte) : EncodingShape.Statement (.movingStateResponse st) :=
    .inl rfl
theorem EncodingShape.setRange (ch : Byte) (mn mx : U16) : EncodingShape.Statement (.setRange ch mn mx) :=
    ⟨rfl, rfl⟩
theorem EncodingShape.setTarget (ch : Byte) (v : U16) : EncodingShape.Statement (.setTarget ch v) := ⟨rfl, rfl⟩
theorem EncodingShape.setSpeed (ch : Byte) (v : U16) : EncodingShape.Statement (.setSpeed ch v) := ⟨rfl, rfl⟩
theorem EncodingShape.setAccel (ch : Byte) (v : U16) : EncodingShape.Statement (.setAccel ch v) := ⟨rfl, rfl⟩
theorem EncodingShape.getPosition (ch : Byte) : EncodingShape.Statement (.getPosition ch) := ⟨rfl, rfl⟩
theorem EncodingShape.isMoving (ch : Byte) : EncodingShape.Statement (.isMoving ch) := ⟨rfl, rfl⟩
theorem EncodingShape.getMovingState : EncodingShape.Statement (.getMovingState) := ⟨rfl, rfl⟩
theorem EncodingShape.runScriptSubroutine (n : Byte) : EncodingShape.Statement (.runScriptSubroutine n) :=
    ⟨rfl, rfl⟩
theorem EncodingShape.stopScript : EncodingShape.Statement (.stopScript) := ⟨rfl, rfl⟩
theorem EncodingShape.reserved9 : EncodingShape.Statement (.reserved9) := ⟨rfl, rfl⟩
theorem EncodingShape.reservedA : EncodingShape.Statement (.reservedA) := ⟨rfl, rfl⟩
theorem EncodingShape.reservedB : EncodingShape.Statement (.reservedB) := ⟨rfl, rfl⟩
theorem EncodingShape.reservedC : EncodingShape.Statement (.reservedC) := ⟨rfl, rfl⟩
theorem EncodingShape.reservedD : EncodingShape.Statement (.reservedD) := ⟨rfl, rfl⟩
theorem EncodingShape.reservedE : EncodingShape.Statement (.reservedE) := ⟨rfl, rfl⟩
theorem EncodingShape.reservedF : EncodingShape.Statement (.reservedF) := ⟨rfl, rfl⟩

end Sys2Proof.Laws
end

