-- ==== Sys2Proof/Laws/Phases.lean ====
section
/-! SUPPORT. What the TX phase, the RX phase and a whole operation leave alone, and how an operation whose Transport
answers goes; the frames of operations in flight are command frames. -/

namespace Sys2Proof.Machine

/-! ## Frames of the two phases -/

/-- The TX phase touches no configuration, no port but the result port, and nothing on the receive side. -/
theorem transmit_frame (s : State) :
    (transmit s).devAddr = s.devAddr ∧ (transmit s).addrMode = s.addrMode ∧ (transmit s).requests = s.requests ∧
    (transmit s).owner = s.owner ∧ (transmit s).rxSync = s.rxSync ∧
    (transmit s).transport.rxStream = s.transport.rxStream ∧
    (transmit s).transport.readAnswers = s.transport.readAnswers ∧
    (transmit s).transport.closed = s.transport.closed := by
  obtain h | ⟨op, _, _, h⟩ | ⟨op, n, _, _, h⟩ := transmit_cases s <;> rw [h]
  · simp
  · obtain ⟨c, t, _, h⟩ | ⟨_, h⟩ | ⟨q, _, h⟩ := afterWrite_cases op (sentState (frame s.addrMode s.devAddr op.body) s) <;>
      rw [h] <;> simp [sentState]
  · simp [sentState]

/-- The RX phase touches no configuration, no port but the result port, no register-file field and nothing on the send
side. -/
theorem receive_frame (s : State) :
    (receive s).devAddr = s.devAddr ∧ (receive s).addrMode = s.addrMode ∧ (receive s).requests = s.requests ∧
    (receive s).owner = s.owner ∧ (receive s).txTrace = s.txTrace ∧ (receive s).rf = s.rf ∧
    (receive s).transport.writeAnswers = s.transport.writeAnswers ∧
    (receive s).transport.closed = s.transport.closed := by
  obtain h | ⟨q, _, _, _, h⟩ | ⟨q, _, _, _, _, h⟩ | ⟨q, _, _, _, h⟩ := receive_cases s <;> rw [h] <;> simp [takenState]

/-- The TX phase writes the register file only for `setTarget`. -/
theorem transmit_rf (s : State) :
    (transmit s).rf = s.rf ∨
    ∃ c t, s.phase = .tx (.setTarget c t) ∧ (transmit s).rf = (s.writeTarget c t).rf := by
  obtain h | ⟨op, hp, _, h⟩ | ⟨op, n, _, _, h⟩ := transmit_cases s <;> rw [h]
  · exact .inl rfl
  · obtain ⟨c, t, rfl, h⟩ | ⟨_, h⟩ | ⟨q, _, h⟩ :=
      afterWrite_cases op (sentState (frame s.addrMode s.devAddr op.body) s) <;> rw [h]
    · exact .inr ⟨c, t, hp, rfl⟩
    · exact .inl rfl
    · exact .inl rfl
  · exact .inl rfl

/-- The bytes the TX phase adds to the trace: none, the whole frame in flight, or a first part of it with an error. -/
theorem transmit_trace (s : State) :
    ∃ p, (transmit s).txTrace = s.txTrace ++ p ∧
      (p = [] ∨ ∃ op, s.phase = .tx op ∧ p <+: frame s.addrMode s.devAddr op.body ∧
        (p = frame s.addrMode s.devAddr op.body ∨ Result.error .transport ∈ (transmit s).results)) := by
  obtain h | ⟨op, hp, _, h⟩ | ⟨op, n, hp, _, h⟩ := transmit_cases s <;> rw [h]
  · exact ⟨[], by simp⟩
  · refine ⟨_, ?_, .inr ⟨op, hp, List.prefix_refl _, .inl rfl⟩⟩
    obtain ⟨c, t, _, h⟩ | ⟨_, h⟩ | ⟨q, _, h⟩ :=
      afterWrite_cases op (sentState (frame s.addrMode s.devAddr op.body) s) <;> rw [h] <;> rfl
  · exact ⟨_, rfl, .inr ⟨op, hp, List.take_prefix _ _, .inr (by simp)⟩⟩

/-- The results the TX phase adds: none, OK or a transport error. -/
theorem transmit_results (s : State) :
    ∃ rs, (transmit s).results = s.results ++ rs ∧
      (rs = [] ∨ (transmit s).phase = .idle ∧ (rs = [.ok] ∨ rs = [.error .transport])) := by
  obtain h | ⟨op, _, _, h⟩ | ⟨op, n, _, _, h⟩ := transmit_cases s <;> rw [h]
  · exact ⟨[], by simp⟩
  · obtain ⟨c, t, _, h⟩ | ⟨_, h⟩ | ⟨q, _, h⟩ :=
      afterWrite_cases op (sentState (frame s.addrMode s.devAddr op.body) s) <;> rw [h]
    · exact ⟨_, rfl, .inr ⟨rfl, .inl rfl⟩⟩
    · exact ⟨_, rfl, .inr ⟨rfl, .inl rfl⟩⟩
    · exact ⟨[], by simp [sentState]⟩
  · exact ⟨_, rfl, .inr ⟨rfl, .inr rfl⟩⟩

/-- The results the RX phase adds: none, or one that ends the operation. -/
theorem receive_results (s : State) :
    (receive s).results = s.results ∨
    ((receive s).phase = .idle ∧ ∃ r, (receive s).results = s.results ++ [r]) := by
  obtain h | ⟨q, _, _, _, h⟩ | ⟨q, _, _, _, _, h⟩ | ⟨q, _, _, _, h⟩ := receive_cases s <;> rw [h]
  · exact .inl rfl
  all_goals exact .inr ⟨rfl, _, rfl⟩

/-- Where the TX phase leaves the sequencer, and with how many results: still in TX with none, in RX with none, or in
IDLE with exactly one. -/
theorem transmit_phase {s : State} {op : InFlight} (hp : s.phase = .tx op) :
    ((transmit s).phase = .tx op ∧ (transmit s).results = s.results) ∨
    (∃ q, op.query? = some q ∧ s.writeAnswer = some .ok ∧ (transmit s).phase = .rx q ∧
      (transmit s).results = s.results ∧ (transmit s).txTrace = s.txTrace ++ frame s.addrMode s.devAddr op.body) ∨
    ((transmit s).phase = .idle ∧ ∃ r, (transmit s).results = s.results ++ [r]) := by
  cases ha : s.writeAnswer with
  | none => exact .inl ⟨by rw [transmit_waiting ha, hp], by rw [transmit_waiting ha]⟩
  | some a =>
    cases a with
    | ok =>
      rw [transmit_ok hp ha]
      cases op <;> first
        | exact .inr (.inr ⟨rfl, _, rfl⟩)
        | exact .inr (.inl ⟨_, rfl, rfl, rfl, rfl, rfl⟩)
    | ioFail n =>
      rw [transmit_ioFail hp ha]
      exact .inr (.inr ⟨rfl, _, rfl⟩)

/-- Where the RX phase leaves the sequencer, and with how many results: still in RX with none, or in IDLE with exactly
one. -/
theorem receive_phase {s : State} {q : Query} (hp : s.phase = .rx q) :
    ((receive s).phase = .rx q ∧ (receive s).results = s.results) ∨
    ((receive s).phase = .idle ∧ ∃ r, (receive s).results = s.results ++ [r]) := by
  obtain h | ⟨_, _, _, _, h⟩ | ⟨_, _, _, _, _, h⟩ | ⟨_, _, _, _, h⟩ := receive_cases s <;> rw [h]
  · exact .inl ⟨hp, rfl⟩
  all_goals exact .inr ⟨rfl, _, rfl⟩

/-- The RX phase never sets the ghost flag, and clears it only by ending the read in an error. -/
theorem receive_rxSync (s : State) :
    (receive s).rxSync = s.rxSync ∨
    ((∃ q, s.phase = .rx q) ∧ (receive s).rxSync = false ∧ (receive s).phase = .idle ∧
      ((receive s).results = s.results ++ [.error .shortRead] ∨
        (receive s).results = s.results ++ [.error .transport])) := by
  obtain h | ⟨_, _, _, _, h⟩ | ⟨q, _, _, hp, _, h⟩ | ⟨q, _, hp, _, h⟩ := receive_cases s <;> rw [h]
  · exact .inl rfl
  · exact .inl rfl
  · exact .inr ⟨⟨q, hp⟩, rfl, rfl, .inl rfl⟩
  · exact .inr ⟨⟨q, hp⟩, rfl, rfl, .inr rfl⟩

/-! ## Answered writes -/

theorem writeAnswer_cons {s : State} {a : WriteAnswer} {ws : List WriteAnswer} (hc : s.transport.closed = false)
    (h : s.transport.writeAnswers = a :: ws) : s.writeAnswer = some a := by
  simp [writeAnswer_open hc, h]

theorem readAnswer_cons {s : State} {a : ReadAnswer} {rs : List ReadAnswer} (hc : s.transport.closed = false)
    (h : s.transport.readAnswers = a :: rs) : s.readAnswer = some a := by
  simp [readAnswer_open hc, h]

theorem afterWrite_query {op : InFlight} {q : Query} (h : op.query? = some q) (s : State) :
    afterWrite op s = { s with phase := .rx q } := by
  cases op <;> cases h <;> rfl

/-- An operation whose write is answered OK goes on with what follows the write. -/
theorem perform_ok {op : InFlight} {s : State} {ws : List WriteAnswer} (hc : s.transport.closed = false)
    (h : s.transport.writeAnswers = .ok :: ws) :
    perform op s = receive (afterWrite op { s with
      phase := .tx op
      txTrace := s.txTrace ++ frame s.addrMode s.devAddr op.body
      transport := { s.transport with writeAnswers := ws } }) := by
  unfold perform
  rw [transmit_ok (op := op) rfl (writeAnswer_cons (s := { s with phase := .tx op }) hc h)]
  simp [sentState, h]

/-- An operation whose write fails ends there. -/
theorem perform_ioFail {op : InFlight} {s : State} {n : Nat} {ws : List WriteAnswer}
    (hc : s.transport.closed = false) (h : s.transport.writeAnswers = .ioFail n :: ws) :
    perform op s = finish (.error .transport) { s with
      txTrace := s.txTrace ++ (frame s.addrMode s.devAddr op.body).take n
      transport := { s.transport with writeAnswers := ws } } := by
  unfold perform
  rw [transmit_ioFail (op := op) rfl (writeAnswer_cons (s := { s with phase := .tx op }) hc h),
    receive_other (by simp)]
  simp [sentState, h, finish]

/-- A request presented while an operation is in flight is not accepted. -/
theorem exec_request_busy {i : Instr} {r : Request} {s : State} (he : encode i = .request r)
    (hp : s.phase ≠ .idle) : exec i s = .next s := by
  cases i <;> first | exact congrArg Host.Outcome.next (accept_busy hp) | cases he

/-- All an instruction can do while an operation is in flight: nothing, or carry on the phase it is in. -/
theorem exec_inFlight {i : Instr} {s t : State} (h : exec i s = .next t) (hp : s.phase ≠ .idle) :
    t = s ∨ (∃ op, s.phase = .tx op ∧ t = transmit s) ∨ (∃ q, s.phase = .rx q ∧ t = receive s) := by
  cases exec_does h with
  | nothing => exact .inl rfl
  | endsAtOnce _ hi => exact absurd hi hp
  | setsRange _ _ _ _ hi => exact absurd hi hp
  | performs _ hi => exact absurd hi hp
  | transmits op ht => exact .inr (.inl ⟨op, ht, rfl⟩)
  | receives _ ha =>
    obtain ⟨q, hq, _⟩ := arriving_eq_some.1 ha
    exact .inr (.inr ⟨q, hq, rfl⟩)

/-- Taking up a request changes the request port alone. -/
theorem consume_eq (s : State) : s.consume = s ∨ s.consume = { s with requests := s.requests.tail } := by
  unfold State.consume
  cases s.phase <;> simp

/-! ## Command frames -/

/-- The frame of every operation in flight is a command frame. -/
theorem inFlight_isCommandFrame (mode : AddrMode) (d : Byte) (op : InFlight) :
    IsCommandFrame mode d (frame mode d op.body) := by
  have wf : ∀ v : U16, fits14 (v &&& 0x3FFF) = true := by
    intro v
    rw [fits14, and_0x3FFF_toNat, decide_eq_true_eq]
    omega
  have sp : ∀ v : U16, split7 (v &&& 0x3FFF) = split7 v := by
    intro v
    refine Prod.ext (BitVec.eq_of_toNat_eq ?_) (BitVec.eq_of_toNat_eq ?_)
    · rw [split7_fst_toNat, split7_fst_toNat, and_0x3FFF_toNat]; omega
    · rw [split7_snd_toNat, split7_snd_toNat, and_0x3FFF_toNat]; omega
  cases op with
  | setTarget c t =>
    exact ⟨.wireSetTarget (channelByte c) (t &&& 0x3FFF), _, wf t, by simp [InFlight.ofCommand], rfl,
      by simp only [InFlight.body, encSetTarget, bodyB4, sp]⟩
  | setSpeed c t =>
    exact ⟨.wireSetSpeed (channelByte c) (t &&& 0x3FFF), _, wf t, by simp [InFlight.ofCommand], rfl,
      by simp only [InFlight.body, encSetSpeed, bodyB4, sp]⟩
  | setAccel c t =>
    exact ⟨.wireSetAcceleration (channelByte c) (t &&& 0x3FFF), _, wf t, by simp [InFlight.ofCommand], rfl,
      by simp only [InFlight.body, encSetAcceleration, bodyB4, sp]⟩
  | getPosition c => exact ⟨.wireGetPosition (channelByte c), _, rfl, by simp [InFlight.ofCommand], rfl, rfl⟩
  | isMoving c t => exact ⟨.wireGetPosition (channelByte c), _, rfl, by simp [InFlight.ofCommand], rfl, rfl⟩
  | getMovingState => exact ⟨.wireGetMovingState, _, rfl, rfl, rfl, rfl⟩
  | runScriptSubroutine n => exact ⟨.wireRunScriptSubroutine n, _, rfl, rfl, rfl, rfl⟩
  | stopScript => exact ⟨.wireStopScript, _, rfl, rfl, rfl, rfl⟩

end Sys2Proof.Machine
end

