-- ==== Sys2Proof/Tests/Slice0.lean ====
section
/-! SUPPORT. The model's own tests: the WellFormed smoke, the spec's words decoded, one or two steps per instruction
from the vectors of spec/95_test_vectors.md, and for every obligation with hypotheses a concrete state and operands
that meet them. Expected values are the spec's. -/

namespace Sys2Proof.Tests

open Sys2Proof Sys2Proof.Machine

/-! ## Small states -/

/-- A block as constructed with no device address given, before a Transport with this script. -/
def start (mode : AddrMode) (rx : List Byte) (ws : List WriteAnswer) (rs : List ReadAnswer) : State :=
  State.construct { devAddr := none, addrMode := mode, transport := none }
    { rxStream := rx, writeAnswers := ws, readAnswers := rs, closed := false } []

/-- Addressed mode; one write is answered OK. -/
def sending : State := start .addressed [] [.ok] []

/-- Addressed mode; one write and one read are answered OK, and these bytes arrive. -/
def answering (rx : List Byte) : State := start .addressed rx [.ok] [.ok]

/-- The next state, if there is one. -/
def after (o : Host.Outcome State Fault Refusal) : Option State :=
  match o with
  | .next s => some s
  | .fault _ => none
  | .refused _ => none

/-- What an operation leaves: the bytes sent, the results, the phase and the ghost flag. -/
def seen (o : Host.Outcome State Fault Refusal) : Option (List Byte × List Result × Phase × Bool) :=
  (after o).map fun s => (s.txTrace, s.results, s.phase, s.rxSync)

/-- The register-file entry of a channel after an operation. -/
def entryOf (c : Fin NCH) (o : Host.Outcome State Fault Refusal) : Option ChannelState :=
  (after o).map fun s => s.entry c

/-! ## WellFormed: one ill-formed term for each check (R86, R90) -/

theorem test_wf_wireSetTarget : Instr.wf (.wireSetTarget 0 16384) = false := by decide
theorem test_wf_wireSetSpeed : Instr.wf (.wireSetSpeed 0 16384) = false := by decide
theorem test_wf_wireSetAcceleration : Instr.wf (.wireSetAcceleration 0 65535) = false := by decide
theorem test_wf_accepts_the_largest : Instr.wf (.wireSetTarget 255 16383) = true := by decide

/-! ## Decoding: words written out from the spec's encodings (R34, R81, R83, R85, R86, R95) -/

/-- V5, V7, V12, V16: the `B4` commands. -/
theorem test_decode_B4 :
    decode (.body [0x04, 0x01, 0x38, 0x17]) = .ok (.wireSetTarget 1 3000) ∧
    decode (.body [0x04, 0x17, 0x7F, 0x7F]) = .ok (.wireSetTarget 23 16383) ∧
    decode (.body [0x07, 0x05, 0x0C, 0x01]) = .ok (.wireSetSpeed 5 140) ∧
    decode (.body [0x09, 0x17, 0x7F, 0x01]) = .ok (.wireSetAcceleration 23 255) := by decide

/-- V20, V21, V23, V24: the `B2` and `B1` commands. -/
theorem test_decode_B2_B1 :
    decode (.body [0x10, 0x17]) = .ok (.wireGetPosition 23) ∧
    decode (.body [0x13]) = .ok .wireGetMovingState ∧
    decode (.body [0x27, 0xC8]) = .ok (.wireRunScriptSubroutine 200) ∧
    decode (.body [0x24]) = .ok .wireStopScript := by decide

/-- V41, V52: the responses. -/
theorem test_decode_responses :
    decode (.response [0x70, 0x17]) = .ok (.positionResponse 0x70 0x17) ∧
    decode (.response [0x80]) = .ok (.movingStateResponse 0x80) := by decide

/-- The request words of programs P1 to P4. -/
theorem test_decode_requests :
    decode (.request ⟨0x0, 0x00, 0x0BB8, 0x2328⟩) = .ok (.setRange 0 3000 9000) ∧
    decode (.request ⟨0x1, 0x01, 0x4E20, 0⟩) = .ok (.setTarget 1 20000) ∧
    decode (.request ⟨0x2, 0x05, 0x008C, 0⟩) = .ok (.setSpeed 5 140) ∧
    decode (.request ⟨0x3, 0x05, 0x0005, 0⟩) = .ok (.setAccel 5 5) ∧
    decode (.request ⟨0x4, 0x18, 0, 0⟩) = .ok (.getPosition 24) ∧
    decode (.request ⟨0x5, 0x02, 7, 9⟩) = .ok (.isMoving 2) ∧
    decode (.request ⟨0x6, 0x55, 7, 9⟩) = .ok .getMovingState ∧
    decode (.request ⟨0x7, 0x02, 0, 0⟩) = .ok (.runScriptSubroutine 2) ∧
    decode (.request ⟨0x8, 0x55, 7, 9⟩) = .ok .stopScript := by decide

/-- The reserved select codes (R34). -/
theorem test_decode_reserved :
    decode (.request ⟨0x9, 0, 0, 0⟩) = .ok .reserved9 ∧ decode (.request ⟨0xA, 1, 2, 3⟩) = .ok .reservedA ∧
    decode (.request ⟨0xB, 0, 0, 0⟩) = .ok .reservedB ∧ decode (.request ⟨0xC, 0, 0, 0⟩) = .ok .reservedC ∧
    decode (.request ⟨0xD, 0, 0, 0⟩) = .ok .reservedD ∧ decode (.request ⟨0xE, 0, 0, 0⟩) = .ok .reservedE ∧
    decode (.request ⟨0xF, 0, 0, 0⟩) = .ok .reservedF := by decide

/-- R98: what the block never sends is rejected by name. -/
theorem test_decode_rejects :
    decode (.body [0x84, 0x00, 0x70, 0x2E]) = .error (.unknownOpcode 0x84) ∧
    decode (.body [0x04, 0x00, 0x80, 0x00]) = .error .highBitSet ∧
    decode (.body [0x04, 0x00, 0x70]) = .error .missingByte ∧
    decode (.body [0x24, 0x24]) = .error .trailingBytes ∧
    decode (.response []) = .error (.responseLength 0) := by decide

/-- V25, V26 and V11: frames of other devices and a channel the codec does not check. -/
theorem test_frames :
    frame .addressed 0xFF encGetMovingState = [0xAA, 0xFF, 0x13] ∧
    frame .addressed 0x00 (encSetTarget 0 6000) = [0xAA, 0x00, 0x04, 0x00, 0x70, 0x2E] ∧
    encSetTarget 255 6000 = [0x04, 0xFF, 0x70, 0x2E] ∧
    encSetAcceleration 7 16385 = [0x09, 0x07, 0x01, 0x00] := by decide

/-- V63, V70, V73, V75, V78, V79: the clamp. -/
theorem test_clamp :
    clamp 3000 9000 1000 = 3000 ∧ clamp 3000 9000 0 = 3000 ∧ clamp 3000 0 20000 = 20000 ∧
    clamp 0 9000 20000 = 9000 ∧ clamp 6000 6000 60000 = 6000 ∧ clamp 1 65535 0 = 1 := by decide

/-- V81: the clamp on an inverted range is the open function's value. -/
theorem test_clamp_inverted : clamp 9000 3000 6000 = Config.clampInverted 9000 3000 6000 := by rfl

/-- Words numbered as the opcode table numbers them. -/
theorem test_decodeTableWord :
    decodeTableWord 32 0x2E700004 = some (.wireSetTarget 0 6000) ∧ decodeTableWord 16 0x1710 = some (.wireGetPosition 23) ∧
    decodeTableWord 8 0x24 = some .wireStopScript ∧ decodeTableWord 16 0x1770 = some (.positionResponse 0x70 0x17) ∧
    decodeTableWord 8 0xFF = some (.movingStateResponse 0xFF) ∧ decodeTableWord 8 0x9 = some .reserved9 ∧
    decodeTableWord 48 0x23280BB8000 = some (.setRange 0 3000 9000) := by decide

/-! ## Host operations -/

/-- V90 and V92. -/
theorem test_setRange :
    entryOf 0 (exec (.setRange 0 3000 9000) sending) = some ⟨0, 3000, 9000⟩ ∧
    seen (exec (.setRange 24 1 2) sending) = some ([], [.error (.invalidChannel 24)], .idle, true) := by decide

/-- S2 and V95: clamped, sent, stored. -/
theorem test_setTarget_clamps :
    seen (exec (.setTarget 0 1000) (sending.writeLimits 0 3000 9000)) =
      some ([0xAA, 0x0C, 0x04, 0x00, 0x38, 0x17], [.ok], .idle, true) ∧
    entryOf 0 (exec (.setTarget 0 1000) (sending.writeLimits 0 3000 9000)) = some ⟨3000, 3000, 9000⟩ := by decide

/-- V98 and V99: all 16 bits are stored; a failed write stores nothing. -/
theorem test_setTarget_stores :
    entryOf 1 (exec (.setTarget 1 20000) sending) = some ⟨20000, 0, 0⟩ ∧
    entryOf 2 (exec (.setTarget 2 7000) ((start .addressed [] [.ioFail 3] []).writeTarget 2 5000)) = some ⟨5000, 0, 0⟩ ∧
    seen (exec (.setTarget 2 7000) (start .addressed [] [.ioFail 3] [])) =
      some ([0xAA, 0x0C, 0x04], [.error .transport], .idle, true) := by decide

/-- V102: limits do not apply to a speed. -/
theorem test_setSpeed :
    seen (exec (.setSpeed 5 10) (sending.writeLimits 5 3000 9000)) =
      some ([0xAA, 0x0C, 0x07, 0x05, 0x0A, 0x00], [.ok], .idle, true) := by decide

/-- V104 and V105. -/
theorem test_setAccel :
    seen (exec (.setAccel 23 255) sending) = some ([0xAA, 0x0C, 0x09, 0x17, 0x7F, 0x01], [.ok], .idle, true) ∧
    seen (exec (.setAccel 100 1) sending) = some ([], [.error (.invalidChannel 100)], .idle, true) := by decide

/-- V106 and V108. -/
theorem test_getPosition :
    seen (exec (.getPosition 3) (answering [0x70, 0x17])) =
      some ([0xAA, 0x0C, 0x10, 0x03], [.position 6000], .idle, true) ∧
    seen (exec (.getPosition 3) (start .addressed [0x70] [.ok] [.short 1 0])) =
      some ([0xAA, 0x0C, 0x10, 0x03], [.error .shortRead], .idle, false) := by decide

/-- V113 and V117: never commanded, and a stored target above 16383. -/
theorem test_isMoving :
    seen (exec (.isMoving 4) (answering [0x70, 0x17])) = some ([], [.bool false], .idle, true) ∧
    seen (exec (.isMoving 1) ((answering [0x20, 0x0E]).writeTarget 1 20000)) =
      some ([0xAA, 0x0C, 0x10, 0x01], [.bool true], .idle, true) := by decide

/-- V114. -/
theorem test_isMoving_arrived :
    seen (exec (.isMoving 0) ((answering [0x70, 0x17]).writeTarget 0 6000)) =
      some ([0xAA, 0x0C, 0x10, 0x00], [.bool false], .idle, true) := by decide

/-- V123 and V121. -/
theorem test_getMovingState :
    seen (exec .getMovingState (start .pointToPoint [0x00] [.ok] [.ok])) = some ([0x13], [.bool false], .idle, true) ∧
    seen (exec .getMovingState (answering [0xFF])) = some ([0xAA, 0x0C, 0x13], [.bool true], .idle, true) := by decide

/-- V128: no answer ever comes. -/
theorem test_getPosition_hangs :
    seen (exec (.getPosition 3) (start .addressed [] [.ok] [])) =
      some ([0xAA, 0x0C, 0x10, 0x03], [], .rx .position, true) := by decide

/-- V125: no channel check. -/
theorem test_runScriptSubroutine :
    seen (exec (.runScriptSubroutine 200) sending) = some ([0xAA, 0x0C, 0x27, 0xC8], [.ok], .idle, true) := by decide

/-- V126. -/
theorem test_stopScript :
    seen (exec .stopScript sending) = some ([0xAA, 0x0C, 0x24], [.ok], .idle, true) := by decide

/-- V127 and its like for the other reserved codes (R166). -/
theorem test_reserved :
    ∀ p ∈ ([(.reserved9, 0x9), (.reservedA, 0xA), (.reservedB, 0xB), (.reservedC, 0xC), (.reservedD, 0xD),
        (.reservedE, 0xE), (.reservedF, 0xF)] : List (Instr × OpCode)),
      seen (exec p.1 sending) = some ([], [.error (.illegalOperation p.2)], .idle, true) := by decide

/-! ## Wire commands and responses -/

/-- V7 at the top of both ranges: the frame in flight is sent, the operation ends and its target is stored. -/
theorem test_wireSetTarget :
    seen (exec (.wireSetTarget 23 16383) { sending with phase := .tx (.setTarget 23 16383) }) =
      some ([0xAA, 0x0C, 0x04, 0x17, 0x7F, 0x7F], [.ok], .idle, true) ∧
    entryOf 23 (exec (.wireSetTarget 23 16383) { sending with phase := .tx (.setTarget 23 16383) }) =
      some ⟨16383, 0, 0⟩ := by decide

/-- V12 and V16. -/
theorem test_wireSetSpeed_wireSetAcceleration :
    seen (exec (.wireSetSpeed 5 140) { sending with phase := .tx (.setSpeed 5 140) }) =
      some ([0xAA, 0x0C, 0x07, 0x05, 0x0C, 0x01], [.ok], .idle, true) ∧
    seen (exec (.wireSetAcceleration 23 255) { sending with phase := .tx (.setAccel 23 255) }) =
      some ([0xAA, 0x0C, 0x09, 0x17, 0x7F, 0x01], [.ok], .idle, true) := by decide

/-- V20 and V21: the queries go on to `RX` (R31). -/
theorem test_wireGetPosition_wireGetMovingState :
    seen (exec (.wireGetPosition 23) { sending with phase := .tx (.getPosition 23) }) =
      some ([0xAA, 0x0C, 0x10, 0x17], [], .rx .position, true) ∧
    seen (exec .wireGetMovingState { sending with phase := .tx .getMovingState }) =
      some ([0xAA, 0x0C, 0x13], [], .rx .movingState, true) := by decide

/-- V22 and V24. -/
theorem test_wireRunScriptSubroutine_wireStopScript :
    seen (exec (.wireRunScriptSubroutine 2) { sending with phase := .tx (.runScriptSubroutine 2) }) =
      some ([0xAA, 0x0C, 0x27, 0x02], [.ok], .idle, true) ∧
    seen (exec .wireStopScript { sending with phase := .tx .stopScript }) =
      some ([0xAA, 0x0C, 0x24], [.ok], .idle, true) := by decide

/-- V45 and V53: first byte received is the low byte; any nonzero byte is true. -/
theorem test_responses :
    seen (exec (.positionResponse 0x70 0x2E) { answering [0x70, 0x2E] with phase := .rx .position }) =
      some ([], [.position 11888], .idle, true) ∧
    seen (exec (.movingStateResponse 0xFF) { answering [0xFF] with phase := .rx .movingState }) =
      some ([], [.bool true], .idle, true) := by decide

/-! ## Steps -/

/-- The request word of P1, step 2, where no limit is set: 1000 is 0x3E8, split into 0x68 and 0x07 (R129). -/
theorem test_step_runs_a_request :
    seen (step { sending with requests := [⟨0x1, 0x00, 0x03E8, 0⟩] }) =
      some ([0xAA, 0x0C, 0x04, 0x00, 0x68, 0x07], [.ok], .idle, true) ∧
    (after (step { sending with requests := [⟨0x1, 0x00, 0x03E8, 0⟩] })).map (·.requests) = some [] := by decide

/-- R42, R213: reset in `IDLE` constructs; in flight it is refused. -/
theorem test_step_reset :
    (after (step { sending.writeTarget 3 77 with owner := some (.reset ⟨some 0xFF, .pointToPoint, none⟩) })).map
      (fun t => (t.devAddr, t.addrMode, t.entry 3)) = some (0xFF, .pointToPoint, ⟨0, 0, 0⟩) ∧
    after (step { sending with phase := .tx .stopScript, owner := some (.reset ⟨none, .addressed, none⟩) }) = none := by
  decide

/-- A word of the opcode table is what the very next step after reset runs. -/
theorem test_withFetchWord :
    step (State.reset.withFetchWord 8 0x9) =
      .next { State.reset with results := [.error (.illegalOperation 0x9)] } ∧
    (State.reset.withFetchWord 32 0x2E700004).nextPacket = some (.body [0x04, 0x00, 0x70, 0x2E]) ∧
    (State.reset.withFetchWord 16 0x1770).nextPacket = some (.response [0x70, 0x17]) := by
  refine ⟨rfl, rfl, rfl⟩

/-! ## Witnesses: states and operands that meet the hypotheses of each obligation, clause by clause -/

/-- In `TX`, with one write answered OK. -/
def sendingOp (op : InFlight) : State := { sending with phase := .tx op }

/-- In `RX`, with these bytes in the stream and one read answered so. -/
def reading (q : Query) (rx : List Byte) (a : ReadAnswer) : State :=
  { start .addressed rx [] [a] with phase := .rx q }

/-- In `IDLE`, with one request at the port. -/
def requested (r : Request) : State := { answering [0x70, 0x17] with requests := [r] }

theorem witness_SplitTakesSevenAndSevenBits :
    (16384 : U16).extractLsb' 0 14 = (0 : U16).extractLsb' 0 14 ∧
    (65535 : U16).extractLsb' 0 14 = (16383 : U16).extractLsb' 0 14 := by decide

theorem witness_OpcodeTableIsComplete :
    decodeBody (0x04 :: [0xFF, 0x7F, 0x7F]) = .ok (.wireSetTarget 255 16383, []) ∧
    decodeBody (0x24 :: [0x13]) = .ok (.wireStopScript, [0x13]) := by decide

theorem witness_EncodeDecodeRoundTrip :
    Instr.wf (.wireSetTarget 255 16383) = true ∧ Instr.wf (.wireSetSpeed 0 0) = true ∧
    Instr.wf (.setTarget 255 65535) = true ∧ Instr.wf (.positionResponse 0xFF 0xFF) = true := by decide

theorem witness_DecodedBytesReencode :
    decode (.body [0x04, 0xFF, 0x7F, 0x7F]) = .ok (.wireSetTarget 255 16383) ∧
    decode (.response [0xFF, 0xFF]) = .ok (.positionResponse 0xFF 0xFF) ∧
    decode (.response [0x00]) = .ok (.movingStateResponse 0x00) := by decide

theorem witness_DecoderRefusesWhatIsNeverSent :
    (0x05 : Byte) ∉ ([0x04, 0x07, 0x09, 0x10, 0x13, 0x27, 0x24] : List Byte) ∧
    (0x09 : Byte) ∈ ([0x04, 0x07, 0x09] : List Byte) ∧ ([0x00, 0x00] : List Byte).length < 3 ∧
    (0x27 : Byte) ∈ ([0x10, 0x27] : List Byte) ∧ 128 ≤ (0x80 : Byte).toNat ∧ (0xAB : Byte) ≠ 0xAA := by decide

theorem witness_FrameParserInvertsFrames :
    Instr.wf (.wireSetSpeed 255 16383) = true ∧ encode (.wireSetSpeed 255 16383) = .body [0x07, 0xFF, 0x7F, 0x7F] := by
  decide

theorem witness_WholeFramesHaveOneReading :
    WholeFrames .addressed 0x0C [0xAA, 0x0C, 0x24, 0xAA, 0x0C, 0x10, 0x17] :=
  ⟨[[0xAA, 0x0C, 0x24], [0xAA, 0x0C, 0x10, 0x17]], rfl, by
    simp only [List.mem_cons, List.not_mem_nil, or_false, forall_eq_or_imp, forall_eq]
    exact ⟨⟨.wireStopScript, _, rfl, rfl, rfl, rfl⟩, ⟨.wireGetPosition 0x17, _, rfl, rfl, rfl, rfl⟩⟩⟩

theorem witness_ChannelAbove23IsRejected :
    sending.phase = .idle ∧ 23 < (24 : Byte).toNat ∧ 23 < (255 : Byte).toNat := by decide

theorem witness_SetRangeStoresBothLimits :
    sending.phase = .idle ∧ (0 : Byte).toNat = (0 : Fin NCH).val ∧ (23 : Byte).toNat = (23 : Fin NCH).val ∧
    23 < (24 : Byte).toNat := by decide

theorem witness_SetTargetClampsSendsAndStores :
    sending.phase = .idle ∧ sending.transport.closed = false ∧ (23 : Byte).toNat = (23 : Fin NCH).val ∧
    sending.transport.writeAnswers = .ok :: [] ∧ (start .addressed [] [.ioFail 0] []).phase = .idle ∧
    (start .addressed [] [.ioFail 0] []).transport.writeAnswers = .ioFail 0 :: [] ∧
    (start .addressed [] [.ioFail 6] []).transport.writeAnswers = .ioFail 6 :: [] ∧ 23 < (24 : Byte).toNat := by decide

theorem witness_PassThroughCommandsSend :
    sending.phase = .idle ∧ sending.transport.closed = false ∧ (23 : Byte).toNat < 24 ∧
    sending.transport.writeAnswers = .ok :: [] ∧
    (start .pointToPoint [] [.ioFail 9] []).transport.writeAnswers = .ioFail 9 :: [] ∧ 23 < (24 : Byte).toNat := by decide

theorem witness_GetPositionReturnsTheBytesRead :
    (answering [0xFF, 0xFF, 0x01]).phase = .idle ∧ (23 : Byte).toNat < 24 ∧
    (answering [0xFF, 0xFF, 0x01]).transport = ⟨0xFF :: 0xFF :: [0x01], .ok :: [], .ok :: [], false⟩ := by decide

theorem witness_IsMovingComparesWithTheStoredTarget :
    (23 : Byte).toNat = (23 : Fin NCH).val ∧ (answering []).phase = .idle ∧ ((answering []).rf[23]).target = 0 ∧
    ((answering [0x01, 0x00]).writeTarget 23 1).phase = .idle ∧
    (((answering [0x01, 0x00]).writeTarget 23 1).rf[23]).target ≠ 0 ∧
    ((answering [0x01, 0x00]).writeTarget 23 1).transport = ⟨0x01 :: 0x00 :: [], .ok :: [], .ok :: [], false⟩ := by decide

theorem witness_GetMovingStateReturnsWhetherNonzero :
    (answering [0x00]).phase = .idle ∧ (answering [0x00]).transport = ⟨0x00 :: [], .ok :: [], .ok :: [], false⟩ := by decide

theorem witness_ReservedCodesAreIllegal :
    sending.phase = .idle ∧ (⟨0x9, 0, 0, 0⟩ : Request).op = 0x9 ∧ (⟨0xF, 1, 2, 3⟩ : Request).op = 0xF := by decide

theorem witness_FailedWriteEndsTheOperation :
    (start .addressed [] [.ioFail 6] []).transport.closed = false ∧
    (start .addressed [] [.ioFail 6] []).transport.writeAnswers = .ioFail 6 :: [] ∧
    (start .addressed [] [.ioFail 6] []).phase = .idle ∧
    starts (.setTarget 23 1) (start .addressed [] [.ioFail 6] []) = some (.setTarget 23 1) ∧
    ({ start .addressed [] [.ioFail 6] [] with phase := .tx (.setSpeed 23 1) } : State).phase = .tx (.setSpeed 23 1) ∧
    ({ start .addressed [] [.ioFail 6] [] with phase := .tx (.setSpeed 23 1) } : State).owner = none := by decide

theorem witness_ShortReadEndsTheQuery :
    1 < Query.position.size ∧ 1 ≤ 1 ∧ 1 ≤ ([0x70] : List Byte).length ∧ 0 < Query.movingState.size ∧
    (start .addressed [0x70] [.ok] [.short 1 1]).phase = .idle ∧
    starts (.getPosition 23) (start .addressed [0x70] [.ok] [.short 1 1]) = some (.getPosition 23) ∧
    (InFlight.getPosition 23).query? = some .position ∧
    (start .addressed [0x70] [.ok] [.short 1 1]).transport = ⟨[0x70], .ok :: [], .short 1 1 :: [], false⟩ := by decide

theorem witness_ShortReadEndsTheQuery_rx :
    (reading .movingState [] (.short 0 0)).phase = .rx .movingState ∧
    (reading .movingState [] (.short 0 0)).owner = none ∧
    (reading .movingState [] (.short 0 0)).transport = ⟨[], [], .short 0 0 :: [], false⟩ := by decide

theorem witness_FailedReadEndsTheQuery :
    (start .addressed [0x70] [.ok] [.ioFail 1]).phase = .idle ∧
    starts .getMovingState (start .addressed [0x70] [.ok] [.ioFail 1]) = some .getMovingState ∧
    InFlight.getMovingState.query? = some .movingState ∧
    (start .addressed [0x70] [.ok] [.ioFail 1]).transport = ⟨[0x70], .ok :: [], .ioFail 1 :: [], false⟩ ∧
    (reading .position [] (.ioFail 0)).phase = .rx .position ∧ (reading .position [] (.ioFail 0)).owner = none ∧
    (reading .position [] (.ioFail 0)).transport = ⟨[], [], .ioFail 0 :: [], false⟩ := by decide

theorem witness_UnansweredTransport_write :
    (start .addressed [] [] []).phase = .idle ∧ starts .stopScript (start .addressed [] [] []) = some .stopScript ∧
    (start .addressed [] [] []).transport.closed = false ∧ (start .addressed [] [] []).transport.writeAnswers = [] ∧
    ({ start .addressed [] [] [] with phase := .tx .stopScript } : State).owner = none ∧
    ({ start .addressed [] [] [] with phase := .tx .stopScript } : State).transport.writeAnswers = [] := by decide

theorem witness_UnansweredTransport_read :
    (answering [0x70]).phase = .idle ∧ starts (.getPosition 0) (answering [0x70]) = some (.getPosition 0) ∧
    (InFlight.getPosition 0).query? = some .position ∧
    (answering [0x70]).transport = ⟨[0x70], .ok :: [], [.ok], false⟩ ∧
    (([.ok] : List ReadAnswer).head? = some .ok ∧ ([0x70] : List Byte).length < Query.position.size) ∧
    sending.transport = ⟨[], .ok :: [], [], false⟩ ∧ (reading .position [0x70] .ok).owner = none ∧
    (reading .position [0x70] .ok).transport.closed = false ∧ (reading .position [0x70] .ok).phase = .rx .position ∧
    (reading .position [0x70] .ok).transport.readAnswers.head? = some .ok ∧
    (reading .position [0x70] .ok).transport.rxStream.length < Query.position.size := by decide

theorem witness_WireValueCommandsSend :
    (23 : Byte).toNat = (23 : Fin NCH).val ∧ split7 16383 = split7 65535 ∧
    (sendingOp (.setTarget 23 65535)).transport.closed = false ∧
    (sendingOp (.setTarget 23 65535)).transport.writeAnswers = .ok :: [] ∧
    (sendingOp (.setTarget 23 65535)).phase = .tx (.setTarget 23 65535) ∧
    (sendingOp (.setSpeed 23 65535)).phase = .tx (.setSpeed 23 65535) ∧
    (sendingOp (.setAccel 23 65535)).phase = .tx (.setAccel 23 65535) := by decide

theorem witness_WireQueryAndScriptCommandsSend :
    (23 : Byte).toNat = (23 : Fin NCH).val ∧ (sendingOp .stopScript).transport.closed = false ∧
    (sendingOp .stopScript).transport.writeAnswers = .ok :: [] ∧
    (sendingOp (.getPosition 23)).phase = .tx (.getPosition 23) ∧ (sendingOp (.isMoving 23 1)).phase = .tx (.isMoving 23 1) ∧
    (sendingOp .getMovingState).phase = .tx .getMovingState ∧
    (sendingOp (.runScriptSubroutine 255)).phase = .tx (.runScriptSubroutine 255) ∧
    (sendingOp .stopScript).phase = .tx .stopScript := by decide

theorem witness_ResponsesEndTheirQueries :
    (reading .position [0xFF, 0xFF] .ok).transport = ⟨0xFF :: 0xFF :: [], [], .ok :: [], false⟩ ∧
    (reading .position [0xFF, 0xFF] .ok).phase = .rx .position ∧
    (reading (.isMoving 65535) [0xFF, 0xFF] .ok).phase = .rx (.isMoving 65535) ∧
    (reading .movingState [0x00] .ok).transport = ⟨0x00 :: [], [], .ok :: [], false⟩ ∧
    (reading .movingState [0x00] .ok).phase = .rx .movingState := by decide

theorem witness_OneOperationInFlight :
    (sendingOp (.getPosition 0)).phase ≠ .idle ∧
    (sendingOp (.getPosition 0)).owner = none ∧
    (after (step (sendingOp (.getPosition 0)))).map (·.phase) = some (.rx .position) ∧
    (sendingOp .stopScript).phase ≠ .idle ∧ (sendingOp .stopScript).owner = none ∧
    (after (step (sendingOp .stopScript))).map (·.phase) = some .idle := by decide

theorem witness_OnlyTheFrameInFlightIsSent :
    encode .stopScript = .request ⟨0x8, 0, 0, 0⟩ ∧ (sendingOp (.getPosition 0)).phase ≠ .idle ∧
    encode .wireGetMovingState = .body [0x13] ∧
    (∀ op, (sendingOp .stopScript).phase = .tx op → op.body ≠ [0x13]) ∧
    encode (.movingStateResponse 0x01) = .response [0x01] ∧
    (∀ q, (reading .movingState [0x00] .ok).phase = .rx q →
      ¬ ((reading .movingState [0x00] .ok).transport.closed = false ∧
        (reading .movingState [0x00] .ok).transport.readAnswers.head? = some .ok ∧
        q.size = ([0x01] : List Byte).length ∧ [0x01] <+: (reading .movingState [0x00] .ok).transport.rxStream)) :=
  ⟨rfl, by decide, rfl, by rintro op ⟨⟩; decide, rfl, by rintro q ⟨⟩; decide⟩

theorem witness_StepRunsTheDecodedInstruction :
    (requested ⟨0x8, 0, 0, 0⟩).owner = none ∧ (requested ⟨0x8, 0, 0, 0⟩).phase = .idle ∧
    (requested ⟨0x8, 0, 0, 0⟩).requests = ⟨0x8, 0, 0, 0⟩ :: [] ∧ decode (.request ⟨0x8, 0, 0, 0⟩) = .ok .stopScript ∧
    (sendingOp .stopScript).owner = none ∧ (sendingOp .stopScript).phase = .tx .stopScript ∧
    decode (.body InFlight.stopScript.body) = .ok .wireStopScript := by decide

theorem witness_StepRunsTheDecodedInstruction_rx :
    (reading .position [0x70, 0x17] .ok).owner = none ∧ (reading .position [0x70, 0x17] .ok).phase = .rx .position ∧
    (reading .position [0x70, 0x17] .ok).transport.closed = false ∧
    (reading .position [0x70, 0x17] .ok).transport.readAnswers = .ok :: [] ∧
    (reading .position [0x70, 0x17] .ok).transport.rxStream = [0x70, 0x17] ∧
    Query.position.size ≤ ([0x70, 0x17] : List Byte).length ∧
    decode (.response (([0x70, 0x17] : List Byte).take Query.position.size)) = .ok (.positionResponse 0x70 0x17) ∧
    sending.requests = [] := by decide

/-- A block whose owner asks for a reset, in this phase. -/
def resetting (p : Phase) (args : ResetArgs) : State := { sending with phase := p, owner := some (.reset args) }

theorem witness_ResetGivesEveryResetValue :
    (resetting .idle ⟨none, .addressed, none⟩).owner = some (.reset ⟨none, .addressed, none⟩) ∧
    (resetting .idle ⟨none, .addressed, none⟩).phase = .idle ∧
    (resetting .idle ⟨some 0xFF, .pointToPoint, some ⟨[0x01], [], [], false⟩⟩).owner =
      some (.reset ⟨some 0xFF, .pointToPoint, some ⟨[0x01], [], [], false⟩⟩) := by decide

theorem witness_ResetIsForIdleAndLeavesTheHostAlone :
    (resetting (.tx .stopScript) ⟨none, .addressed, none⟩).owner = some (.reset ⟨none, .addressed, none⟩) ∧
    (resetting (.tx .stopScript) ⟨none, .addressed, none⟩).phase ≠ .idle ∧
    (resetting (.rx .position) ⟨none, .addressed, none⟩).phase ≠ .idle ∧
    (resetting .idle ⟨none, .addressed, none⟩).owner = some (.reset ⟨none, .addressed, none⟩) ∧
    (resetting .idle ⟨none, .addressed, none⟩).phase = .idle := by decide

/-- A block whose Transport is closed. -/
def closedAt (p : Phase) : State :=
  { sending with phase := p, transport := { sending.transport with closed := true } }

theorem witness_ClosingEndsTheOperationInFlight :
    ({ sending with owner := some .close } : State).owner = some .close ∧
    (closedAt (.tx .stopScript)).owner = none ∧ (closedAt (.tx .stopScript)).transport.closed = true ∧
    (closedAt (.tx .stopScript)).phase = .tx .stopScript ∧ (closedAt (.rx .position)).phase = .rx .position ∧
    (closedAt .idle).phase = .idle ∧ starts .stopScript (closedAt .idle) = some .stopScript := by decide

theorem witness_OnlyResetChangesTheConfiguration :
    (∃ t, step (requested ⟨0x8, 0, 0, 0⟩) = .next t) ∧ (∀ args, (requested ⟨0x8, 0, 0, 0⟩).owner ≠ some (.reset args)) ∧
    ∃ t, exec .stopScript sending = .next t :=
  ⟨⟨_, rfl⟩, by intro args; exact nofun, ⟨_, rfl⟩⟩

theorem witness_TraceOnlyGrows :
    ∃ t, step (requested ⟨0x8, 0, 0, 0⟩) = .next t ∧ (∀ args, (requested ⟨0x8, 0, 0, 0⟩).owner ≠ some (.reset args)) ∧
      t.txTrace = [0xAA, 0x0C, 0x24] :=
  ⟨_, rfl, by intro args; exact nofun, by decide⟩

theorem witness_StepKeepsOnlyFramesSent :
    (requested ⟨0x8, 0, 0, 0⟩).OnlyFramesSent ∧ ∃ t, step (requested ⟨0x8, 0, 0, 0⟩) = .next t ∧ t.txTrace ≠ [] :=
  ⟨⟨[], rfl, by simp⟩, _, rfl, by decide⟩

theorem witness_StepKeepsWholeUnlessFailed :
    (requested ⟨0x8, 0, 0, 0⟩).WholeUnlessFailed ∧ Result.error .transport ∉ (requested ⟨0x8, 0, 0, 0⟩).results ∧
    ∃ t, step (requested ⟨0x8, 0, 0, 0⟩) = .next t ∧ t.results = [.ok] :=
  ⟨fun _ => ⟨[], rfl, by simp⟩, by decide, _, rfl, by decide⟩

theorem witness_StepKeepsShortReadDesyncs :
    (reading .position [0x70] (.short 1 0)).ShortReadDesyncs ∧
    ∃ t, step (reading .position [0x70] (.short 1 0)) = .next t ∧ Result.error .shortRead ∈ t.results :=
  ⟨fun h => absurd h (by decide), _, rfl, by decide⟩

theorem witness_EveryRunSendsOnlyFrames :
    ∃ s, Reachable s ∧ Result.error .transport ∉ s.results ∧ s.txTrace = [0xAA, 0x0C, 0x24] :=
  ⟨_, .step _ _ (.construct ⟨none, .addressed, none⟩ ⟨[], [.ok], [], false⟩ [⟨0x8, 0, 0, 0⟩]) rfl, by decide, by decide⟩

theorem witness_GhostFlagIsNeverRead :
    SameButGhost sending { sending with rxSync := false } ∧ sending ≠ { sending with rxSync := false } :=
  ⟨rfl, by decide⟩

theorem witness_OnlyFailedReadsClearTheGhostFlag :
    ∃ t, step (reading .position [0x70] (.short 1 0)) = .next t ∧
      (∀ args, (reading .position [0x70] (.short 1 0)).owner ≠ some (.reset args)) ∧
      (reading .position [0x70] (.short 1 0)).rxSync = true ∧ t.rxSync = false :=
  ⟨_, rfl, by intro args; exact nofun, by decide, by decide⟩

theorem witness_OnlyFailedReadsClearTheGhostFlag_from_idle :
    ∃ s t, step s = .next t ∧ (∀ args, s.owner ≠ some (.reset args)) ∧ s.phase = .idle ∧ s.rxSync = true ∧
      t.rxSync = false ∧ t.results = [.error .transport] :=
  ⟨{ start .addressed [] [.ok] [.ioFail 0] with requests := [⟨0x6, 0, 0, 0⟩] }, _, rfl, by intro args; exact nofun,
    rfl, rfl, by decide, by decide⟩

theorem witness_OnlyFailedReadsClearTheGhostFlag_kept :
    ∃ t, step (requested ⟨0x8, 0, 0, 0⟩) = .next t ∧ t.rxSync = true := ⟨_, rfl, by decide⟩

theorem witness_OnlyTwoOperationsWriteTheRegisterFile :
    (∃ t, exec (.setRange 23 1 2) sending = .next t) ∧
    writesEntry (.setRange 23 1 2) ≠ some (BitVec.ofNat 8 (22 : Fin NCH).val) ∧
    (∃ t, exec (.setTarget 23 1) sending = .next t) ∧
    (∀ ch mn mx, Instr.setTarget 23 1 ≠ .setRange ch mn mx) :=
  ⟨⟨_, rfl⟩, by decide, ⟨_, rfl⟩, by intro ch mn mx; exact nofun⟩

theorem witness_OneResultPerOperation :
    (∃ t, exec .stopScript sending = .next t) ∧ encode .stopScript = .request ⟨0x8, 0, 0, 0⟩ ∧
    sending.phase = .idle ∧ (sendingOp .stopScript).phase ≠ .idle ∧
    ∃ t, exec .wireStopScript (sendingOp .stopScript) = .next t ∧ t.phase = .idle :=
  ⟨⟨_, rfl⟩, rfl, rfl, by decide, _, rfl, by decide⟩

theorem witness_PhaseTransitionsAreComplete :
    (∃ t, exec (.isMoving 4) sending = .next t) ∧ sending.phase = .idle ∧ starts (.isMoving 4) sending = none ∧
    starts (.getPosition 23) sending = some (.getPosition 23) ∧
    (∃ t, exec .wireStopScript (sendingOp .stopScript) = .next t) ∧ (sendingOp .stopScript).phase = .tx .stopScript ∧
    (∃ t, exec (.movingStateResponse 1) (reading .movingState [0x01] .ok) = .next t) ∧
    (reading .movingState [0x01] .ok).phase = .rx .movingState :=
  ⟨⟨_, rfl⟩, rfl, rfl, rfl, ⟨_, rfl⟩, rfl, ⟨_, rfl⟩, rfl⟩

theorem witness_ErrorsLeaveTheRegisterFile :
    (∃ t, exec (.setTarget 24 1) sending = .next t ∧ t.results = sending.results ++ [.error (.invalidChannel 24)]) ∧
    (reading .position [0x70] (.short 1 0)).owner = none ∧
    ∃ t, step (reading .position [0x70] (.short 1 0)) = .next t ∧
      t.results = (reading .position [0x70] (.short 1 0)).results ++ [.error .shortRead] :=
  ⟨⟨_, rfl, rfl⟩, rfl, _, rfl, rfl⟩

/-- Bounds absent, alone, together and equal, and inverted. -/
theorem witness_ClampIsTheSoftLimit :
    (1 : U16) ≠ 0 ∧ (65535 : U16) ≠ 0 ∧ (1 : U16).toNat ≤ (65535 : U16).toNat ∧ (6000 : U16).toNat ≤ (6000 : U16).toNat ∧
    (2 : U16).toNat < (3 : U16).toNat ∧ ¬ ((3 : U16) ≠ 0 ∧ (0 : U16) ≠ 0 ∧ (0 : U16).toNat < (3 : U16).toNat) := by decide

theorem witness_RegisterFileReadsWhatWasWritten : (22 : Fin NCH) ≠ 23 := by decide

theorem witness_CommandsIgnoreTheResponseStream :
    Instr.setTarget 24 1 ∈ [Instr.setRange 24 1 2, .setTarget 24 1, .setSpeed 24 1, .setAccel 24 1,
      .runScriptSubroutine 0, .stopScript] ∧ sending.phase = .idle := by decide

theorem witness_NoDeadlineMeansNoShortRead :
    (reading .position [] (.ioFail 0)).owner = none ∧
    (reading .position [] (.ioFail 0)).transport.RespectsDeadline none ∧
    ∃ t, step (reading .position [] (.ioFail 0)) = .next t ∧ t.results = [.error .transport] :=
  ⟨rfl, fun _ k j h => by exact absurd h (by simp [reading, start, State.construct]), _, rfl, rfl⟩

theorem witness_SetRangeAndReservedFrame :
    (∃ t, exec (.setRange 23 1 2) sending = .next t ∧ t.entry 23 = ⟨0, 1, 2⟩) ∧ (22 : Fin NCH).val ≠ (23 : Byte).toNat ∧
    ∃ t, exec .reservedF sending = .next t ∧ t.results ≠ [] :=
  ⟨⟨_, rfl, by decide⟩, by decide, _, rfl, by decide⟩

theorem witness_SetTargetFrame :
    (∃ t, exec (.setTarget 23 1) sending = .next t ∧ t.entry 23 = ⟨1, 0, 0⟩) ∧ (22 : Fin NCH).val ≠ (23 : Byte).toNat :=
  ⟨⟨_, rfl, by decide⟩, by decide⟩

theorem witness_PassThroughAndQueryFrame :
    (∃ t, exec (.setAccel 23 1) sending = .next t ∧ t.results = [.ok]) ∧
    ∃ t, exec (.getPosition 23) (answering [0x01, 0x02, 0x03]) = .next t ∧ t.transport.rxStream = [0x03] :=
  ⟨⟨_, rfl, by decide⟩, _, rfl, by decide⟩

theorem witness_WireAndResponseFrame :
    encode (.wireSetTarget 23 1) = .body (encSetTarget 23 1) ∧
    (∃ t, exec (.wireSetTarget 23 1) (sendingOp (.setTarget 23 1)) = .next t ∧ t.entry 23 = ⟨1, 0, 0⟩) ∧
    (22 : Fin NCH).val ≠ (23 : Byte).toNat ∧ (∀ ch v, Instr.wireStopScript ≠ .wireSetTarget ch v) ∧
    encode (.positionResponse 0x70 0x17) = .response [0x70, 0x17] ∧
    ∃ t, exec (.positionResponse 0x70 0x17) (reading .position [0x70, 0x17] .ok) = .next t ∧ t.results = [.position 6000] :=
  ⟨rfl, ⟨_, rfl, by decide⟩, by decide, by intro ch v; exact nofun, rfl, _, rfl, by decide⟩

end Sys2Proof.Tests
end

section
/-! PROOF. Where the Transport applies no deadline, nothing the machine does in one step reports a short read: the
relation `AddsNoShortRead` holds across each phase, composes, and so holds across every step. -/

namespace Sys2Proof.Machine

/-! ## The Transport without a deadline -/

/-- A Transport keeps respecting the absent deadline as long as it is given no further read answers. -/
theorem respectsDeadline_of_readAnswers_subset {tr tr' : Transport} (hr : tr.RespectsDeadline none)
    (hsub : tr'.readAnswers ⊆ tr.readAnswers) : tr'.RespectsDeadline none :=
  fun hd k j hmem => hr hd k j (hsub hmem)

/-- A short answer to the read in progress is one of the Transport's own: a closed Transport gives none. -/
theorem short_mem_readAnswers {s : State} {k j : Nat} (h : s.readAnswer = some (.short k j)) :
    ReadAnswer.short k j ∈ s.transport.readAnswers := by
  cases hc : s.transport.closed with
  | true => simp [readAnswer_closed hc] at h
  | false => exact List.mem_of_mem_head? (readAnswer_open hc ▸ h)

/-! ## Changes that report no short read -/

/-- From `s` to `t`, with no deadline at the Transport in `s`: the results grow by none that is `ShortReadError`, and
the Transport has no deadline in `t` either. -/
def AddsNoShortRead (s t : State) : Prop :=
  s.transport.RespectsDeadline none →
    (∃ new, t.results = s.results ++ new ∧ Result.error .shortRead ∉ new) ∧ t.transport.RespectsDeadline none

namespace AddsNoShortRead

variable {s t u : State}

/-- Read answers may be used up, and no result appears. -/
theorem of_sameResults (hres : t.results = s.results)
    (hsub : t.transport.readAnswers ⊆ s.transport.readAnswers) : AddsNoShortRead s t :=
  fun hr => ⟨⟨[], by simp [hres]⟩, respectsDeadline_of_readAnswers_subset hr hsub⟩

theorem refl (s : State) : AddsNoShortRead s s := of_sameResults rfl (List.Subset.refl _)

theorem trans (hst : AddsNoShortRead s t) (htu : AddsNoShortRead t u) : AddsNoShortRead s u := by
  intro hr
  obtain ⟨⟨new₁, h₁, hn₁⟩, hr₁⟩ := hst hr
  obtain ⟨⟨new₂, h₂, hn₂⟩, hr₂⟩ := htu hr₁
  exact ⟨⟨new₁ ++ new₂, by rw [h₂, h₁, List.append_assoc], by simp [hn₁, hn₂]⟩, hr₂⟩

/-- Ending an operation with any other result. -/
theorem finish {r : Result} (hst : AddsNoShortRead s t) (hr : r ≠ .error .shortRead) :
    AddsNoShortRead s (Machine.finish r t) :=
  hst.trans fun htr => ⟨⟨[r], rfl, by simpa using hr.symm⟩, htr⟩

end AddsNoShortRead

/-! ## The phases -/

theorem transmit_addsNoShortRead (s : State) : AddsNoShortRead s (transmit s) := by
  intro hr
  obtain ⟨new, hnew, hcases⟩ := transmit_results s
  obtain ⟨-, -, -, -, -, -, hread, -⟩ := transmit_frame s
  refine ⟨⟨new, hnew, ?_⟩, respectsDeadline_of_readAnswers_subset hr (by simp [hread])⟩
  obtain rfl | ⟨-, rfl | rfl⟩ := hcases <;> simp

/-- Taking bytes from the stream uses up one read answer. -/
theorem takenState_addsNoShortRead (j : Nat) (sync : Bool) (s : State) :
    AddsNoShortRead s { takenState j s with rxSync := sync } :=
  .of_sameResults rfl (List.tail_subset _)

/-- The one way to a `ShortReadError` is a short answer, which a Transport without a deadline does not give. -/
theorem receive_addsNoShortRead (s : State) : AddsNoShortRead s (receive s) := by
  obtain h | ⟨q, -, -, -, h⟩ | ⟨q, k, j, -, hshort, -⟩ | ⟨q, j, -, -, h⟩ := receive_cases s
  · rw [h]
    exact .refl s
  · rw [h]
    exact (takenState_addsNoShortRead q.size s.rxSync s).finish (result_ne_error q _ .shortRead)
  · exact fun hr => absurd (short_mem_readAnswers hshort) (hr rfl k j)
  · rw [h]
    exact (takenState_addsNoShortRead j false s).finish (by simp)

theorem perform_addsNoShortRead (op : InFlight) (s : State) : AddsNoShortRead s (perform op s) :=
  have accepted : AddsNoShortRead s { s with phase := .tx op } := .of_sameResults rfl (List.Subset.refl _)
  (accepted.trans (transmit_addsNoShortRead _)).trans (receive_addsNoShortRead _)

/-! ## Instructions and steps -/

/-- An operation that ends before it touches the Transport does not end in `ShortReadError`. -/
theorem EndsAtOnce.ne_shortRead {i : Instr} {s : State} {r : Result} (h : EndsAtOnce i s r) :
    r ≠ .error .shortRead := by
  obtain ⟨_, _, _, rfl⟩ | ⟨_, rfl⟩ | ⟨_, _, _, _, _, rfl⟩ := h <;> simp

theorem exec_addsNoShortRead {i : Instr} {s t : State} (h : exec i s = .next t) : AddsNoShortRead s t := by
  cases exec_does h with
  | nothing => exact .refl s
  | endsAtOnce r _ _ hr => exact (AddsNoShortRead.refl s).finish hr.ne_shortRead
  | setsRange ch c mn mx =>
    have written : AddsNoShortRead s (s.writeLimits c mn mx) := .of_sameResults rfl (List.Subset.refl _)
    exact written.finish (by simp)
  | performs op => exact perform_addsNoShortRead op s
  | transmits => exact transmit_addsNoShortRead s
  | receives => exact receive_addsNoShortRead s

theorem consume_addsNoShortRead (s : State) : AddsNoShortRead s s.consume := by
  obtain h | h := consume_eq s <;> rw [h]
  · exact .refl s
  · exact .of_sameResults rfl (List.Subset.refl _)

theorem step_addsNoShortRead {s t : State} (howner : s.owner = none) (h : step s = .next t) :
    AddsNoShortRead s t := by
  obtain ⟨args, ho, -, -⟩ | ⟨ho, -⟩ | ⟨-, -, rfl⟩ | ⟨-, _, _, -, -, hexec⟩ := step_cases h
  · simp [howner] at ho
  · simp [howner] at ho
  · exact receive_addsNoShortRead s
  · exact (consume_addsNoShortRead s).trans (exec_addsNoShortRead hexec)

/-- Settles O54, from what one step adds to the results: none of it is a `ShortReadError`. -/
theorem noDeadlineMeansNoShortRead : Obligations.NoDeadlineMeansNoShortRead := by
  intro s t howner hr hstep
  obtain ⟨⟨new, hnew, hshort⟩, hr'⟩ := step_addsNoShortRead howner hstep hr
  refine ⟨fun hres => hshort ?_, hr'⟩
  rw [List.append_cancel_left (hnew.symm.trans hres)]
  exact List.mem_singleton_self _

end Sys2Proof.Machine
end

section
/-! PROOF. The decoder undoes the encoder, level by level: request words, command bodies, responses. -/

namespace Sys2Proof.Machine

/-! ## The three levels -/

/-- A value that fits the wire is its own low 14 bits. -/
theorem and_0x3FFF_of_fits14 {v : U16} (h : fits14 v = true) : v &&& 0x3FFF = v := by
  have hlt : v.toNat < 16384 := of_decide_eq_true h
  exact BitVec.eq_of_toNat_eq (by rw [and_0x3FFF_toNat, Nat.mod_eq_of_lt hlt])

/-- The body decoder reads a well-formed command off the front of its bytes, and leaves the rest. -/
theorem decodeBody_of_encode {i : Instr} {body : List Byte} (hwf : i.wf = true) (he : encode i = .body body)
    (rest : List Byte) : decodeBody (body ++ rest) = .ok (i, rest) := by
  have valueCommand : ∀ (make : Byte → U16 → Instr) (ch : Byte) {v : U16}, fits14 v = true →
      decodeB4 make (ch :: (split7 v).1 :: (split7 v).2 :: rest) = .ok (make ch v, rest) := by
    intro make ch v hv
    rw [decodeB4_split7, and_0x3FFF_of_fits14 hv]
  cases i with
  | wireSetTarget ch v => cases he; exact valueCommand .wireSetTarget ch hwf
  | wireSetSpeed ch v => cases he; exact valueCommand .wireSetSpeed ch hwf
  | wireSetAcceleration ch v => cases he; exact valueCommand .wireSetAcceleration ch hwf
  | wireGetPosition ch => cases he; rfl
  | wireGetMovingState => cases he; rfl
  | wireRunScriptSubroutine n => cases he; rfl
  | wireStopScript => cases he; rfl
  | _ => cases he

theorem decodeResponse_of_encode {i : Instr} {bytes : List Byte} (he : encode i = .response bytes) :
    decodeResponse bytes = .ok i := by
  cases i with
  | positionResponse lsb msb => cases he; rfl
  | movingStateResponse st => cases he; rfl
  | _ => cases he

theorem decodeRequest_of_encode {i : Instr} {r : Request} (he : encode i = .request r) : decodeRequest r = i := by
  cases i <;> cases he <;> rfl

/-! ## The obligations -/

/-- Settles O7, level by level. -/
theorem encodeDecodeRoundTrip : Obligations.EncodeDecodeRoundTrip := by
  intro i hwf
  cases he : encode i with
  | request r => exact congrArg Except.ok (decodeRequest_of_encode he)
  | body bytes =>
    have h := decodeBody_of_encode hwf he []
    rw [List.append_nil] at h
    simp only [decode, h]
  | response bytes => exact decodeResponse_of_encode he

/-- Settles O10, by running the decoder on each word. -/
theorem decoderReadsTheSpecsWords : Obligations.DecoderReadsTheSpecsWords := by
  unfold Obligations.DecoderReadsTheSpecsWords
  decide

end Sys2Proof.Machine
end

section
/-! PROOF. What a whole operation, an instruction and a step can do, said once for the state's obligations: how an
operation moves from IDLE and from its waiting points, and how a relation that each phase keeps is kept by every
step. -/

namespace Sys2Proof.Machine

/-! ## The Transport's OK answers are its own -/

/-- A write is answered OK only before the Transport is closed. -/
theorem writeAnswer_eq_ok {s : State} :
    s.writeAnswer = some .ok ↔ s.transport.closed = false ∧ s.transport.writeAnswers.head? = some .ok := by
  cases hc : s.transport.closed <;> simp [writeAnswer_open, writeAnswer_closed, hc]

/-- A read is answered OK only before the Transport is closed. -/
theorem readAnswer_eq_ok {s : State} :
    s.readAnswer = some .ok ↔ s.transport.closed = false ∧ s.transport.readAnswers.head? = some .ok := by
  cases hc : s.transport.closed <;> simp [readAnswer_open, readAnswer_closed, hc]

/-! ## A whole operation -/

/-- The state once the port has accepted an operation that sends a frame. -/
def begunState (op : InFlight) (s : State) : State := { s with phase := .tx op }

@[simp] theorem begunState_phase (op : InFlight) (s : State) : (begunState op s).phase = .tx op := rfl

theorem perform_eq (op : InFlight) (s : State) : perform op s = receive (transmit (begunState op s)) := rfl

/-- Where an operation that sends a frame stands after its acceptance, and with how many results: waiting in TX or in
RX with none, or ended with exactly one. -/
theorem perform_phase (op : InFlight) (s : State) :
    ((perform op s).phase = .tx op ∧ (perform op s).results = s.results) ∨
    (∃ q, op.query? = some q ∧ (perform op s).phase = .rx q ∧ (perform op s).results = s.results) ∨
    ((perform op s).phase = .idle ∧ ∃ r, (perform op s).results = s.results ++ [r]) := by
  rw [perform_eq]
  obtain ⟨hp, hr⟩ | ⟨q, hq, -, hp, hr, -⟩ | ⟨hp, hr⟩ := transmit_phase (begunState_phase op s)
  · rw [receive_other (by simp [hp])]
    exact .inl ⟨hp, hr⟩
  · obtain ⟨hp', hr'⟩ | ⟨hp', r, hr'⟩ := receive_phase hp
    · exact .inr (.inl ⟨q, hq, hp', hr'.trans hr⟩)
    · exact .inr (.inr ⟨hp', r, by rw [hr', hr]; rfl⟩)
  · rw [receive_other (by simp [hp])]
    exact .inr (.inr ⟨hp, hr⟩)

/-! ## Instructions from IDLE -/

/-- A request that sends no frame ends at once. -/
theorem exec_of_starts_none {i : Instr} {r : Request} {s : State} (he : encode i = .request r) (hp : s.phase = .idle)
    (h : starts i s = none) : ∃ res s', s'.results = s.results ∧ exec i s = .next (finish res s') := by
  have ends : ∀ {f : State → State} {res : Result} {s' : State}, f s = finish res s' → s'.results = s.results →
      ∃ res s', s'.results = s.results ∧
        (.next (accept s f) : Host.Outcome State Fault Refusal) = .next (finish res s') :=
    fun hf hs' => ⟨_, _, hs', congrArg Host.Outcome.next ((accept_idle hp).trans hf)⟩
  have rejected : ∀ (ch : Byte) (op : Fin NCH → InFlight) (f : Fin NCH → State → State),
      (checkChannel ch).map op = none → withChannel ch f s = finish (.error (.invalidChannel ch)) s := by
    intro ch op f hnone
    obtain ⟨c, -, hc⟩ | ⟨hgt, -⟩ := checkChannel_cases ch
    · simp [hc] at hnone
    · exact withChannel_invalid hgt
  have illegal : ∀ code : OpCode, ∃ res s', s'.results = s.results ∧
      (.next (accept s (raise (.illegalOperation code))) : Host.Outcome State Fault Refusal) = .next (finish res s') :=
    fun _ => ends rfl rfl
  cases i with
  | setRange ch mn mx =>
    obtain ⟨c, -, -, hw⟩ | ⟨-, -, hw⟩ := withChannel_cases ch (fun c s => finish .ok (s.writeLimits c mn mx)) s
    · exact ends hw rfl
    · exact ends hw rfl
  | setTarget ch v => exact ends (rejected ch _ _ h) rfl
  | setSpeed ch v => exact ends (rejected ch _ _ h) rfl
  | setAccel ch v => exact ends (rejected ch _ _ h) rfl
  | getPosition ch => exact ends (rejected ch _ _ h) rfl
  | isMoving ch =>
    obtain ⟨c, hcv, hc⟩ | ⟨hgt, -⟩ := checkChannel_cases ch
    · have h0 : (s.entry c).target = 0 := by simpa [starts, hc] using h
      exact ends (res := .bool false) (s' := s) ((withChannel_valid hcv).trans (by simp only [h0, if_true])) rfl
    · exact ends (withChannel_invalid hgt) rfl
  | getMovingState => cases h
  | runScriptSubroutine n => cases h
  | stopScript => cases h
  | reserved9 => exact illegal _
  | reservedA => exact illegal _
  | reservedB => exact illegal _
  | reservedC => exact illegal _
  | reservedD => exact illegal _
  | reservedE => exact illegal _
  | reservedF => exact illegal _
  | _ => cases he

/-- All an instruction can do in IDLE: nothing, if it is no request; end at once with one result, if it sends no
frame; or perform the operation it starts. -/
theorem exec_fromIdle {i : Instr} {s t : State} (h : exec i s = .next t) (hp : s.phase = .idle) :
    (starts i s = none ∧ t = s ∧ ∀ r, encode i ≠ .request r) ∨
    (starts i s = none ∧ ∃ res s', s'.results = s.results ∧ t = finish res s') ∨
    (∃ op, starts i s = some op ∧ t = perform op s) := by
  cases hst : starts i s with
  | some op => exact .inr (.inr ⟨op, rfl, Host.Outcome.next.inj (h.symm.trans (exec_of_starts hp hst))⟩)
  | none =>
    cases he : encode i with
    | request r =>
      obtain ⟨res, s', hs', hx⟩ := exec_of_starts_none he hp hst
      exact .inr (.inl ⟨rfl, res, s', hs', Host.Outcome.next.inj (h.symm.trans hx)⟩)
    | body bytes =>
      refine .inl ⟨rfl, Host.Outcome.next.inj (h.symm.trans ((exec_body s he).trans ?_)), by simp⟩
      rw [sendBody_other (by simp [hp])]
    | response bytes =>
      refine .inl ⟨rfl, Host.Outcome.next.inj (h.symm.trans ((exec_response s he).trans ?_)), by simp⟩
      obtain h' | ⟨ha, -⟩ := takeResponse_cases bytes s
      · rw [h']
      · obtain ⟨q, hq, -⟩ := arriving_eq_some.1 ha
        cases hp.symm.trans hq

/-- Where an instruction leaves an idle sequencer, and with how many results: as it was, if it is no request; waiting
with none; or idle with exactly one. -/
theorem exec_fromIdle_move {i : Instr} {s t : State} (h : exec i s = .next t) (hp : s.phase = .idle) :
    (t = s ∧ ∀ r, encode i ≠ .request r) ∨ (t.phase ≠ .idle ∧ t.results = s.results) ∨
    (t.phase = .idle ∧ ∃ r, t.results = s.results ++ [r]) := by
  obtain ⟨-, hsame⟩ | ⟨-, res, s', hs', rfl⟩ | ⟨op, -, rfl⟩ := exec_fromIdle h hp
  · exact .inl hsame
  · exact .inr (.inr ⟨rfl, res, by rw [finish_results, hs']⟩)
  · obtain ⟨htx, hres⟩ | ⟨q, -, hrx, hres⟩ | ended := perform_phase op s
    · exact .inr (.inl ⟨by simp [htx], hres⟩)
    · exact .inr (.inl ⟨by simp [hrx], hres⟩)
    · exact .inr (.inr ended)

/-! ## Instructions and steps while an operation is in flight -/

/-- Carrying on the phase in flight: the requests stay, and the operation goes on with no result or ends with one. -/
theorem inFlight_move {s t : State} (hp : s.phase ≠ .idle)
    (h : t = s ∨ (∃ op, s.phase = .tx op ∧ t = transmit s) ∨ (∃ q, s.phase = .rx q ∧ t = receive s)) :
    t.requests = s.requests ∧
    ((t.phase ≠ .idle ∧ t.results = s.results) ∨ (t.phase = .idle ∧ ∃ r, t.results = s.results ++ [r])) := by
  obtain rfl | ⟨op, htx, rfl⟩ | ⟨q, hrx, rfl⟩ := h
  · exact ⟨rfl, .inl ⟨hp, rfl⟩⟩
  · obtain ⟨-, -, hreq, -⟩ := transmit_frame s
    refine ⟨hreq, ?_⟩
    obtain ⟨h', hr⟩ | ⟨q, -, -, h', hr, -⟩ | ended := transmit_phase htx
    · exact .inl ⟨by simp [h'], hr⟩
    · exact .inl ⟨by simp [h'], hr⟩
    · exact .inr ended
  · obtain ⟨-, -, hreq, -⟩ := receive_frame s
    refine ⟨hreq, ?_⟩
    obtain ⟨h', hr⟩ | ended := receive_phase hrx
    · exact .inl ⟨by simp [h'], hr⟩
    · exact .inr ended

theorem consume_idle {s : State} (hp : s.phase = .idle) : s.consume = { s with requests := s.requests.tail } := by
  simp [State.consume, hp]

theorem consume_busy {s : State} (hp : s.phase ≠ .idle) : s.consume = s := by
  unfold State.consume
  cases h : s.phase with
  | idle => exact absurd h hp
  | tx op => rfl
  | rx q => rfl

/-- All a step without an owner's action can do while an operation is in flight. -/
theorem step_inFlight {s t : State} (ho : s.owner = none) (hp : s.phase ≠ .idle) (h : step s = .next t) :
    t = s ∨ (∃ op, s.phase = .tx op ∧ t = transmit s) ∨ (∃ q, s.phase = .rx q ∧ t = receive s) := by
  obtain ⟨args, hreset, -⟩ | ⟨hclose, -⟩ | ⟨-, -, rfl⟩ | ⟨-, p, i, -, -, hx⟩ := step_cases h
  · simp [ho] at hreset
  · simp [ho] at hclose
  · by_cases hrx : ∃ q, s.phase = .rx q
    · exact .inr (.inr (hrx.imp fun q hq => ⟨hq, rfl⟩))
    · exact .inl (receive_other (not_exists.1 hrx))
  · rw [consume_busy hp] at hx
    exact exec_inFlight hx hp

/-- Where a step leaves an operation in flight, with what requests and how many results. -/
theorem step_inFlight_move {s t : State} (ho : s.owner = none) (hp : s.phase ≠ .idle) (h : step s = .next t) :
    t.requests = s.requests ∧
    ((t.phase ≠ .idle ∧ t.results = s.results) ∨ (t.phase = .idle ∧ ∃ r, t.results = s.results ++ [r])) :=
  inFlight_move hp (step_inFlight ho hp h)

/-! ## What a step runs -/

theorem step_of_nextPacket {s : State} {p : Packet} {i : Instr} (ho : s.owner = none) (hn : s.nextPacket = some p)
    (hd : decode p = .ok i) : step s = exec i s.consume := by
  simp [step, ho, hn, hd]

theorem step_of_no_packet {s : State} (ho : s.owner = none) (hn : s.nextPacket = none) :
    step s = .next (receive s) := by
  simp [step, ho, hn]

theorem step_reset {s : State} {args : ResetArgs} (ho : s.owner = some (.reset args)) (hp : s.phase = .idle) :
    step s = .next (State.construct args s.transport s.requests) := by
  simp [step, ho, ownerAct, hp]

theorem step_reset_busy {s : State} {args : ResetArgs} (ho : s.owner = some (.reset args)) (hp : s.phase ≠ .idle) :
    step s = .refused .resetInFlight := by
  cases h : s.phase with
  | idle => exact absurd h hp
  | tx op => simp [step, ho, ownerAct, h]
  | rx q => simp [step, ho, ownerAct, h]

theorem step_close {s : State} (ho : s.owner = some .close) :
    step s = .next { s with owner := none, transport := { s.transport with closed := true } } := by
  simp [step, ho, ownerAct]

/-! ## Relations that every phase keeps -/

/-- A relation between states before and after that each part of an operation keeps: it chains, and it holds across an
immediate end, the writing of limits, an acceptance, the TX phase, the RX phase, a change of the request port and the
closing of the Transport. -/
structure KeptByPhases (R : State → State → Prop) : Prop where
  refl : ∀ s, R s s
  trans : ∀ s t u, R s t → R t u → R s u
  endsAtOnce : ∀ i s r, EndsAtOnce i s r → R s (finish r s)
  setsRange : ∀ s c mn mx, R s (finish .ok (s.writeLimits c mn mx))
  begins : ∀ s op, R s (begunState op s)
  transmits : ∀ s, R s (transmit s)
  receives : ∀ s, R s (receive s)
  requests : ∀ s rs, R s { s with requests := rs }
  closes : ∀ s, R s { s with owner := none, transport := { s.transport with closed := true } }

namespace KeptByPhases

variable {R : State → State → Prop} (hR : KeptByPhases R)
include hR

/-- It holds across every instruction. -/
theorem exec {i : Instr} {s t : State} (h : Machine.exec i s = .next t) : R s t := by
  cases exec_does h with
  | nothing => exact hR.refl s
  | endsAtOnce r _ _ hr => exact hR.endsAtOnce i s r hr
  | setsRange ch c mn mx => exact hR.setsRange s c mn mx
  | performs op =>
    rw [perform_eq]
    exact hR.trans _ _ _ (hR.begins s op) (hR.trans _ _ _ (hR.transmits _) (hR.receives _))
  | transmits => exact hR.transmits s
  | receives => exact hR.receives s

/-- It holds across every step but a reset. -/
theorem step {s t : State} (h : Machine.step s = .next t) (hreset : ∀ args, s.owner ≠ some (.reset args)) : R s t := by
  obtain ⟨args, ho, -⟩ | ⟨-, rfl⟩ | ⟨-, -, rfl⟩ | ⟨-, p, i, -, -, hx⟩ := step_cases h
  · exact absurd ho (hreset args)
  · exact hR.closes s
  · exact hR.receives s
  · have taken : R s s.consume := by
      obtain h' | h' := consume_eq s <;> rw [h']
      · exact hR.refl s
      · exact hR.requests s _
    exact hR.trans _ _ _ taken (hR.exec hx)

end KeptByPhases

end Sys2Proof.Machine
end

section
/-! PROOF. What every step keeps of the state: the configuration, the trace, the ghost flag's promise; and what only
some instructions may write, the register file. -/

namespace Sys2Proof.Machine

/-! ## The configuration and the trace -/

def SameConfiguration (s t : State) : Prop := t.devAddr = s.devAddr ∧ t.addrMode = s.addrMode

theorem sameConfiguration_kept : KeptByPhases SameConfiguration where
  refl _ := ⟨rfl, rfl⟩
  trans _ _ _ hst htu := ⟨htu.1.trans hst.1, htu.2.trans hst.2⟩
  endsAtOnce _ _ _ _ := ⟨rfl, rfl⟩
  setsRange _ _ _ _ := ⟨rfl, rfl⟩
  begins _ _ := ⟨rfl, rfl⟩
  transmits s := have ⟨hd, hm, _⟩ := transmit_frame s; ⟨hd, hm⟩
  receives s := have ⟨hd, hm, _⟩ := receive_frame s; ⟨hd, hm⟩
  requests _ _ := ⟨rfl, rfl⟩
  closes _ := ⟨rfl, rfl⟩

/-- Settles O36: no phase writes the configuration. -/
theorem onlyResetChangesTheConfiguration : Obligations.OnlyResetChangesTheConfiguration :=
  ⟨fun _ _ h hreset => sameConfiguration_kept.step h hreset, fun _ _ _ h => sameConfiguration_kept.exec h⟩

def TraceExtends (s t : State) : Prop := s.txTrace <+: t.txTrace

theorem traceExtends_kept : KeptByPhases TraceExtends where
  refl _ := List.prefix_refl _
  trans _ _ _ := List.IsPrefix.trans
  endsAtOnce _ _ _ _ := List.prefix_refl _
  setsRange _ _ _ _ := List.prefix_refl _
  begins _ _ := List.prefix_refl _
  transmits s := have ⟨p, hp, _⟩ := transmit_trace s; ⟨p, hp.symm⟩
  receives s := have ⟨_, _, _, _, htrace, _⟩ := receive_frame s; ⟨[], by simp [htrace]⟩
  requests _ _ := List.prefix_refl _
  closes _ := List.prefix_refl _

/-- Settles O37: the TX phase appends to the trace, and nothing else writes it. -/
theorem traceOnlyGrows : Obligations.TraceOnlyGrows :=
  fun _ _ h hreset => traceExtends_kept.step h hreset

/-! ## A short read leaves the ghost flag false -/

/-- Adding any other result to a state, with the ghost flag left alone. -/
theorem State.ShortReadDesyncs.of_append {s t : State} {new : List Result} (hs : s.ShortReadDesyncs)
    (hres : t.results = s.results ++ new) (hnew : Result.error .shortRead ∉ new) (hsync : t.rxSync = s.rxSync) :
    t.ShortReadDesyncs := by
  intro hmem
  rw [hres, List.mem_append] at hmem
  exact hsync.trans (hs (hmem.resolve_right hnew))

theorem State.ShortReadDesyncs.of_rxSync {s : State} (h : s.rxSync = false) : s.ShortReadDesyncs := fun _ => h

theorem State.ShortReadDesyncs.transmit {s : State} (hs : s.ShortReadDesyncs) : (transmit s).ShortReadDesyncs := by
  obtain ⟨new, hres, hnew⟩ := transmit_results s
  obtain ⟨-, -, -, -, hsync, -⟩ := transmit_frame s
  refine of_append hs hres ?_ hsync
  obtain rfl | ⟨-, rfl | rfl⟩ := hnew <;> simp

/-- The read that ends in an error clears the flag; the read that returns bytes ends in no error. -/
theorem State.ShortReadDesyncs.receive {s : State} (hs : s.ShortReadDesyncs) : (receive s).ShortReadDesyncs := by
  obtain h | ⟨q, -, -, -, h⟩ | ⟨q, k, j, -, -, h⟩ | ⟨q, j, -, -, h⟩ := receive_cases s <;> rw [h]
  · exact hs
  · exact of_append hs rfl (by simpa using (result_ne_error q _ .shortRead).symm) rfl
  · exact of_rxSync rfl
  · exact of_rxSync rfl

theorem shortReadDesyncs_kept : KeptByPhases fun s t => s.ShortReadDesyncs → t.ShortReadDesyncs where
  refl _ := id
  trans _ _ _ hst htu := htu ∘ hst
  endsAtOnce _ _ _ hr hs := .of_append hs rfl (by simpa using hr.ne_shortRead.symm) rfl
  setsRange s c mn mx hs := .of_append (s := s) hs rfl (by simp) rfl
  begins _ _ := id
  transmits _ hs := hs.transmit
  receives _ hs := hs.receive
  requests _ _ := id
  closes _ := id

theorem construct_shortReadDesyncs (args : ResetArgs) (tr : Transport) (rs : List Request) :
    (State.construct args tr rs).ShortReadDesyncs := by
  simp [State.ShortReadDesyncs]

/-- Settles O40: a reset forgets the results, and every other step keeps the promise phase by phase. -/
theorem stepKeepsShortReadDesyncs : Obligations.StepKeepsShortReadDesyncs := by
  intro s t hs h
  by_cases hreset : ∃ args, s.owner = some (.reset args)
  · obtain ⟨args, -, -, rfl⟩ | ⟨ho, -⟩ | ⟨ho, -⟩ | ⟨ho, -⟩ := step_cases h
    · exact construct_shortReadDesyncs args _ _
    all_goals simp [ho] at hreset
  · exact shortReadDesyncs_kept.step h (not_exists.1 hreset) hs

/-! ## What clears the ghost flag -/

/-- From `s` to `t` an operation has ended in the error of its own read: the read was in flight, or its whole frame
was sent on the way. -/
def EndsInReadError (s t : State) : Prop :=
  t.phase = .idle ∧
  (t.results = s.results ++ [.error .shortRead] ∨ t.results = s.results ++ [.error .transport]) ∧
  ((∃ q, s.phase = .rx q) ∨
    (s.phase = .idle ∧ s.transport.closed = false ∧ s.transport.writeAnswers.head? = some .ok ∧
      ∃ (op : InFlight) (q : Query), op.query? = some q ∧
        t.txTrace = s.txTrace ++ frame s.addrMode s.devAddr op.body))

/-- The ghost flag is left alone, or cleared by the error of a read. -/
def ClearsGhostByReadError (s t : State) : Prop :=
  t.rxSync = s.rxSync ∨ (t.rxSync = false ∧ EndsInReadError s t)

theorem receive_clearsGhost (s : State) : ClearsGhostByReadError s (receive s) := by
  obtain h | ⟨hrx, hsync, hidle, hres⟩ := receive_rxSync s
  · exact .inl h
  · exact .inr ⟨hsync, hidle, hres, .inl hrx⟩

/-- An operation that clears the flag has sent its whole frame and gone on to its read. -/
theorem perform_clearsGhost {op : InFlight} {s : State} (hp : s.phase = .idle) :
    ClearsGhostByReadError s (perform op s) := by
  obtain ⟨-, -, -, -, hsync, -⟩ := transmit_frame (begunState op s)
  obtain h | ⟨⟨q, hq⟩, hcleared, hidle, hres⟩ := receive_rxSync (transmit (begunState op s))
  · exact .inl (h.trans hsync)
  · obtain ⟨htx, -⟩ | ⟨q', hquery, hok, -, hsame, hsent⟩ | ⟨hi, -⟩ := transmit_phase (begunState_phase op s)
    · cases hq.symm.trans htx
    · obtain ⟨hopen, hhead⟩ := writeAnswer_eq_ok.1 hok
      obtain ⟨-, -, -, -, htrace, -⟩ := receive_frame (transmit (begunState op s))
      rw [hsame] at hres
      exact .inr ⟨hcleared, hidle, hres, .inr ⟨hp, hopen, hhead, op, q', hquery, htrace.trans hsent⟩⟩
    · cases hq.symm.trans hi

theorem exec_clearsGhost {i : Instr} {s t : State} (h : exec i s = .next t) : ClearsGhostByReadError s t := by
  cases exec_does h with
  | nothing => exact .inl rfl
  | endsAtOnce r => exact .inl rfl
  | setsRange ch c mn mx => exact .inl rfl
  | performs op hp => exact perform_clearsGhost hp
  | transmits => have ⟨_, _, _, _, hsync, _⟩ := transmit_frame s; exact .inl hsync
  | receives => exact receive_clearsGhost s

theorem step_clearsGhost {s t : State} (h : step s = .next t) (hreset : ∀ args, s.owner ≠ some (.reset args)) :
    ClearsGhostByReadError s t := by
  obtain ⟨args, ho, -⟩ | ⟨-, rfl⟩ | ⟨-, -, rfl⟩ | ⟨-, p, i, -, -, hx⟩ := step_cases h
  · exact absurd ho (hreset args)
  · exact .inl rfl
  · exact receive_clearsGhost s
  · have hclears := exec_clearsGhost hx
    obtain h' | h' := consume_eq s <;> rw [h'] at hclears <;> exact hclears

/-- Settles O44, from the one way in which a step can clear the flag. -/
theorem onlyFailedReadsClearTheGhostFlag : Obligations.OnlyFailedReadsClearTheGhostFlag := by
  intro s t h hreset
  obtain hsame | ⟨hcleared, hends⟩ := step_clearsGhost h hreset
  · exact ⟨fun ht => hsame ▸ ht, fun hs ht => by simp [hsame, hs] at ht⟩
  · exact ⟨fun ht => by simp [hcleared] at ht, fun _ _ => hends⟩

/-! ## The register file -/

/-- An instruction encoded as a SetTarget body names the entry of that channel. -/
theorem writesEntry_of_encSetTarget {i : Instr} {ch : Byte} {v : U16} (h : encode i = .body (encSetTarget ch v)) :
    writesEntry i = some ch := by
  cases i with
  | wireSetTarget ch' v' => simp_all [encode, encSetTarget, bodyB4, writesEntry]
  | _ =>
    simp [encode, encSetTarget, encSetSpeed, encSetAcceleration, encGetPosition, encGetMovingState,
      encRunScriptSubroutine, encStopScript, bodyB4, bodyB2, bodyB1, opcSetTarget, opcSetSpeed, opcSetAcceleration] at h

/-- Only `setTarget` starts a SetTarget in flight, and of its own channel. -/
theorem writesEntry_of_starts {i : Instr} {s : State} {c : Fin NCH} {v : U16}
    (h : starts i s = some (.setTarget c v)) : writesEntry i = some (channelByte c) := by
  cases i with
  | setTarget ch v' =>
    obtain ⟨c', hc', he⟩ := Option.map_eq_some_iff.1 h
    cases he
    rw [channelByte_eq_iff.2 (checkChannel_eq_some.1 hc')]
    rfl
  | isMoving ch =>
    obtain ⟨c', -, hc'⟩ | ⟨-, hc'⟩ := checkChannel_cases ch
    · simp only [starts, hc'] at h
      split at h <;> cases h
    · simp [starts, hc'] at h
  | setSpeed ch v' => simp [starts] at h
  | setAccel ch v' => simp [starts] at h
  | getPosition ch => simp [starts] at h
  | _ => cases h

/-- All an instruction can do to the register file: nothing, the target of the channel it names, or, for `setRange`,
its channel's limits. -/
theorem exec_rf {i : Instr} {s t : State} (h : exec i s = .next t) :
    t.rf = s.rf ∨
    (∃ c v, writesEntry i = some (channelByte c) ∧ (∀ ch mn mx, i ≠ .setRange ch mn mx) ∧
      t.rf = (s.writeTarget c v).rf) ∨
    (∃ c mn mx, i = .setRange (channelByte c) mn mx ∧ t.rf = (s.writeLimits c mn mx).rf) := by
  cases exec_does h with
  | nothing => exact .inl rfl
  | endsAtOnce r => exact .inl rfl
  | setsRange ch c mn mx hp hi hc =>
    obtain rfl := channelByte_eq_iff.2 hc
    exact .inr (.inr ⟨c, mn, mx, hi, rfl⟩)
  | performs op hp hst =>
    obtain ⟨-, -, -, -, -, hrf, -⟩ := receive_frame (transmit (begunState op s))
    obtain h' | ⟨c, v, htx, h'⟩ := transmit_rf (begunState op s)
    · exact .inl (hrf.trans h')
    · cases htx
      exact .inr (.inl ⟨c, v, writesEntry_of_starts hst, fun ch mn mx hi => (by cases hi; cases hst), hrf.trans h'⟩)
  | transmits op hp he =>
    obtain h' | ⟨c, v, htx, h'⟩ := transmit_rf s
    · exact .inl h'
    · cases hp.symm.trans htx
      exact .inr (.inl ⟨c, v, writesEntry_of_encSetTarget he, fun ch mn mx hi => (by cases hi; cases he), h'⟩)
  | receives => have ⟨_, _, _, _, _, hrf, _⟩ := receive_frame s; exact .inl hrf

/-- Settles O45, from the three things an instruction can do to the register file. -/
theorem onlyTwoOperationsWriteTheRegisterFile : Obligations.OnlyTwoOperationsWriteTheRegisterFile := by
  intro i s t c h
  change (writesEntry i ≠ some (channelByte c) → t.entry c = s.entry c) ∧
    ((∀ ch mn mx, i ≠ .setRange ch mn mx) →
      (t.entry c).minLimit = (s.entry c).minLimit ∧ (t.entry c).maxLimit = (s.entry c).maxLimit) ∧
    (∀ ch mn mx, i = .setRange ch mn mx → (t.entry c).target = (s.entry c).target)
  have entry_of_rf : ∀ {u : State}, t.rf = u.rf → t.entry c = u.entry c := fun hrf => by simp [State.entry, hrf]
  obtain hrf | ⟨d, v, hw, hno, hrf⟩ | ⟨d, mn, mx, rfl, hrf⟩ := exec_rf h <;> rw [entry_of_rf hrf]
  · exact ⟨fun _ => rfl, fun _ => ⟨rfl, rfl⟩, fun _ _ _ _ => rfl⟩
  · refine ⟨fun hne => entry_writeTarget_other s v fun hcd => hne (hcd ▸ hw), fun _ => ?_,
      fun ch mn mx hi => absurd hi (hno ch mn mx)⟩
    by_cases hcd : c = d
    · subst hcd
      rw [entry_writeTarget_same]
      exact ⟨rfl, rfl⟩
    · rw [entry_writeTarget_other s v hcd]
      exact ⟨rfl, rfl⟩
  · refine ⟨fun hne => entry_writeLimits_other s mn mx fun hcd => hne (hcd ▸ rfl),
      fun hno => absurd rfl (hno _ mn mx), fun _ _ _ _ => ?_⟩
    by_cases hcd : c = d
    · subst hcd
      rw [entry_writeLimits_same]
    · rw [entry_writeLimits_other s mn mx hcd]

end Sys2Proof.Machine
end

section
/-! PROOF. How instructions and steps move the sequencer, what stands still while an operation is in flight, and what a
reset leaves. -/

namespace Sys2Proof.Machine

/-! ## One operation in flight -/

/-- Settles O28, from the moves of an operation in flight. -/
theorem oneOperationInFlight : Obligations.OneOperationInFlight := by
  refine ⟨fun s t ho hp h => ?_, fun s t ho hp h ht => ?_, fun s t ho hp h ht => ?_⟩
  all_goals obtain ⟨hreq, ⟨hbusy, hres⟩ | ⟨hidle, hended⟩⟩ := step_inFlight_move ho hp h
  · exact hreq
  · exact hreq
  · exact hres
  · exact absurd hidle ht
  · exact absurd ht hbusy
  · exact hended

/-- Bytes that arrive are the front of the stream, of the length that the read in flight asks for. -/
theorem front_of_arriving {s : State} {bytes : List Byte} (h : s.arriving = some bytes) :
    ∃ q, s.phase = .rx q ∧ s.transport.closed = false ∧ s.transport.readAnswers.head? = some .ok ∧
      q.size = bytes.length ∧ bytes <+: s.transport.rxStream := by
  obtain ⟨q, hq, hok, hn, rfl⟩ := arriving_eq_some.1 h
  obtain ⟨hopen, hhead⟩ := readAnswer_eq_ok.1 hok
  exact ⟨q, hq, hopen, hhead, (List.length_take_of_le hn).symm, List.take_prefix _ _⟩

/-- Settles O29, level by level. -/
theorem onlyTheFrameInFlightIsSent : Obligations.OnlyTheFrameInFlightIsSent := by
  refine ⟨fun i r s he hp => exec_request_busy he hp, fun i body s he hother => ?_, fun i bytes s he hother => ?_⟩
  · rw [exec_body s he, sendBody_other hother]
  · rw [exec_response s he]
    obtain h | ⟨ha, -⟩ := takeResponse_cases bytes s
    · rw [h]
    · obtain ⟨q, hq, hfront⟩ := front_of_arriving ha
      exact absurd hfront (hother q hq)

/-! ## Results and phases of instructions -/

/-- Settles O46, from the moves of an operation that starts in IDLE and of one in flight. -/
theorem oneResultPerOperation : Obligations.OneResultPerOperation := by
  intro i s t h
  by_cases hp : s.phase = .idle
  · obtain ⟨rfl, hno⟩ | ⟨hbusy, hres⟩ | ended := exec_fromIdle_move h hp
    · exact ⟨.inl rfl, fun hbusy => absurd hp hbusy, fun r he => absurd he (hno r)⟩
    · exact ⟨.inl hres, fun _ ht => absurd ht hbusy, fun _ _ _ => .inr ⟨hbusy, hres⟩⟩
    · exact ⟨.inr ended, fun _ _ => ended.2, fun _ _ _ => .inl ended⟩
  · obtain ⟨-, ⟨hbusy, hres⟩ | ended⟩ := inFlight_move hp (exec_inFlight h hp)
    · exact ⟨.inl hres, fun _ ht => absurd ht hbusy, fun _ _ hidle => absurd hidle hp⟩
    · exact ⟨.inr ended, fun _ _ => ended.2, fun _ _ hidle => absurd hidle hp⟩

/-- Settles O47, one phase after the other. -/
theorem phaseTransitionsAreComplete : Obligations.PhaseTransitionsAreComplete := by
  intro i s t h
  refine ⟨fun hp hst => ?_, fun op hp hst => ?_, fun op hp => ?_, fun q hp => ?_⟩
  · obtain ⟨-, rfl, -⟩ | ⟨-, res, s', -, rfl⟩ | ⟨op, hop, -⟩ := exec_fromIdle h hp
    · exact hp
    · rfl
    · cases hst.symm.trans hop
  · obtain rfl := Host.Outcome.next.inj ((exec_of_starts hp hst).symm.trans h)
    obtain ⟨htx, -⟩ | ⟨q, hq, hrx, -⟩ | ⟨hidle, -⟩ := perform_phase op s
    · exact .inr (.inl htx)
    · exact .inr (.inr ⟨q, hq, hrx⟩)
    · exact .inl hidle
  · obtain rfl | ⟨_, _, rfl⟩ | ⟨q, hrx, -⟩ := exec_inFlight h (by simp [hp])
    · exact .inl hp
    · obtain ⟨htx, -⟩ | ⟨q, hq, -, hrx, -⟩ | ⟨hidle, -⟩ := transmit_phase hp
      · exact .inl htx
      · exact .inr (.inr ⟨q, hq, hrx⟩)
      · exact .inr (.inl hidle)
    · cases hp.symm.trans hrx
  · obtain rfl | ⟨op, htx, -⟩ | ⟨_, _, rfl⟩ := exec_inFlight h (by simp [hp])
    · exact .inl hp
    · cases hp.symm.trans htx
    · obtain ⟨hrx, -⟩ | ⟨hidle, -⟩ := receive_phase hp
      · exact .inl hrx
      · exact .inr hidle

/-! ## What a step runs -/

/-- Settles O30, from the packet at hand in each phase. -/
theorem stepRunsTheDecodedInstruction : Obligations.StepRunsTheDecodedInstruction := by
  refine ⟨fun s r rest i ho hp hreq hd => ?_, fun s op i ho hp hd => ?_,
    fun s q rx rs i ho hp hopen hans hrx hn hd => ?_, fun s ho hp hreq => ?_⟩
  · rw [step_of_nextPacket ho (by simp [State.nextPacket, hp, hreq]) hd, consume_idle hp, hreq]
    rfl
  · rw [step_of_nextPacket ho (by simp [State.nextPacket, hp]) hd, consume_busy (by simp [hp])]
  · subst hrx
    have ha : s.arriving = some (s.transport.rxStream.take q.size) :=
      arriving_eq_some.2 ⟨q, hp, readAnswer_cons hopen hans, hn, rfl⟩
    rw [step_of_nextPacket ho (by simp [State.nextPacket, hp, ha]) hd, consume_busy (by simp [hp])]
  · rw [step_of_no_packet ho (by simp [State.nextPacket, hp, hreq]), receive_other (by simp [hp])]

/-! ## Reset and construction -/

/-- Construction leaves every register-file entry zero. -/
theorem construct_rf (args : ResetArgs) (tr : Transport) (rs : List Request) (c : Fin NCH) :
    (State.construct args tr rs).rf[c.val] = { target := 0, minLimit := 0, maxLimit := 0 } := by
  simp [State.construct]

/-- Settles O32: a reset is construction from the Transport and the requests at hand. -/
theorem resetGivesEveryResetValue : Obligations.ResetGivesEveryResetValue := by
  intro s args ho hp
  refine ⟨_, step_reset ho hp, fun c => by simp [construct_rf], fun hd => by simp [hd, defaultDevAddr],
    fun d hd => by simp [hd], rfl, rfl, rfl, rfl, fun ht => by simp [ht], fun tr ht => by simp [ht]⟩

/-- Settles O34: the reset state is a construction with no device address given. -/
theorem resetState : Obligations.ResetState :=
  ⟨fun c => by simp [State.reset, construct_rf], rfl, rfl, rfl, rfl, rfl, rfl, rfl, rfl⟩

/-- A block that has sent nothing has sent whole frames only. -/
theorem wholeFrames_nil (mode : AddrMode) (d : Byte) : WholeFrames mode d [] := ⟨[], rfl, by simp⟩

/-- Settles O41: a constructed block has sent nothing and ended nothing. -/
theorem constructedStatesMeetTheInvariants : Obligations.ConstructedStatesMeetTheInvariants := by
  have constructed : ∀ (args : ResetArgs) (tr : Transport) (rs : List Request),
      (State.construct args tr rs).OnlyFramesSent ∧ (State.construct args tr rs).WholeUnlessFailed ∧
      (State.construct args tr rs).ShortReadDesyncs :=
    fun args tr rs => ⟨⟨[], rfl, by simp⟩, fun _ => wholeFrames_nil _ _, construct_shortReadDesyncs args tr rs⟩
  exact ⟨constructed, constructed _ _ _⟩

/-! ## The result port -/

theorem Result.status_le_four (r : Result) : r.status.toNat ≤ 4 := by
  cases r with
  | error e => cases e <;> simp [Result.status, OpError.status]
  | _ => simp [Result.status]

/-- Settles O51: every clause reads off the tables of codes and data. -/
theorem statusCodesAndData : Obligations.StatusCodesAndData :=
  ⟨rfl, fun _ => rfl, fun _ => rfl, rfl, rfl, fun _ => rfl, fun _ => rfl, Result.status_le_four, fun _ => rfl, rfl, rfl,
    rfl, fun _ => rfl⟩

end Sys2Proof.Machine
end

section
/-! PROOF. Nothing the machine does reads the ghost flag: each shared operation, each instruction and each step takes
states that differ in the flag at most to states that differ in it at most. -/

namespace Sys2Proof.Machine

/-! ## What states that differ in the flag at most have in common -/

namespace SameButGhost

variable {s t : State} (h : SameButGhost s t)
include h

theorem phase : t.phase = s.phase := (congrArg State.phase h :).symm
theorem addrMode : t.addrMode = s.addrMode := (congrArg State.addrMode h :).symm
theorem devAddr : t.devAddr = s.devAddr := (congrArg State.devAddr h :).symm
theorem transport : t.transport = s.transport := (congrArg State.transport h :).symm
theorem requests : t.requests = s.requests := (congrArg State.requests h :).symm
theorem owner : t.owner = s.owner := (congrArg State.owner h :).symm
theorem entry (c : Fin NCH) : t.entry c = s.entry c := (congrArg (State.entry · c) h :).symm
theorem writeAnswer : t.writeAnswer = s.writeAnswer := (congrArg State.writeAnswer h :).symm
theorem readAnswer : t.readAnswer = s.readAnswer := (congrArg State.readAnswer h :).symm

/-- The bytes that arrive are the phase's and the Transport's business alone. -/
theorem arriving : t.arriving = s.arriving :=
  Option.ext fun _ => by simp only [arriving_eq_some, h.phase, h.readAnswer, h.transport]

theorem nextPacket : t.nextPacket = s.nextPacket := by
  simp only [State.nextPacket, h.phase, h.requests, h.arriving]

end SameButGhost

/-! ## Operations that do not read the flag -/

/-- A change of the state that does not read the flag. -/
def GhostBlind (f : State → State) : Prop := ∀ s t, SameButGhost s t → SameButGhost (f s) (f t)

theorem GhostBlind.comp {f g : State → State} (hg : GhostBlind g) (hf : GhostBlind f) : GhostBlind (g ∘ f) :=
  fun s t hst => hg _ _ (hf s t hst)

theorem finish_blind (r : Result) : GhostBlind (finish r) := fun _ _ => congrArg (finish r)

theorem writeLimits_blind (c : Fin NCH) (mn mx : U16) : GhostBlind (State.writeLimits c mn mx) :=
  fun _ _ => congrArg (State.writeLimits c mn mx)

theorem begunState_blind (op : InFlight) : GhostBlind (begunState op) := fun _ _ => congrArg (begunState op)

theorem sentState_blind (bytes : List Byte) : GhostBlind (sentState bytes) := fun _ _ => congrArg (sentState bytes)

theorem takenState_blind (j : Nat) : GhostBlind (takenState j) := fun _ _ => congrArg (takenState j)

/-- Clearing the flag brings both states to the same value of it. -/
theorem clearing_blind (j : Nat) : GhostBlind fun s => { takenState j s with rxSync := false } :=
  takenState_blind j

theorem afterWrite_blind (op : InFlight) : GhostBlind (afterWrite op) := by
  intro s t hst
  have h := congrArg (afterWrite op) hst
  cases op <;> exact h

theorem consume_blind : GhostBlind State.consume := by
  intro s t hst
  by_cases hp : s.phase = .idle
  · rw [consume_idle hp, consume_idle (hst.phase.trans hp)]
    exact congrArg (fun u : State => { u with requests := u.requests.tail }) hst
  · rwa [consume_busy hp, consume_busy (hst.phase ▸ hp)]

/-! ## The two phases -/

theorem transmit_blind : GhostBlind transmit := by
  intro s t hst
  by_cases htx : ∃ op, s.phase = .tx op
  · obtain ⟨op, hp⟩ := htx
    have hp' := hst.phase.trans hp
    have ha' := hst.writeAnswer
    cases ha : s.writeAnswer with
    | none => rwa [transmit_waiting ha, transmit_waiting (ha'.trans ha)]
    | some a =>
      cases a with
      | ok =>
        rw [transmit_ok hp ha, transmit_ok hp' (ha'.trans ha), hst.addrMode, hst.devAddr]
        exact afterWrite_blind op _ _ (sentState_blind _ s t hst)
      | ioFail n =>
        rw [transmit_ioFail hp ha, transmit_ioFail hp' (ha'.trans ha), hst.addrMode, hst.devAddr]
        exact finish_blind _ _ _ (sentState_blind _ s t hst)
  · have hno := not_exists.1 htx
    rwa [transmit_other hno, transmit_other fun op => hst.phase ▸ hno op]

theorem receive_blind : GhostBlind receive := by
  intro s t hst
  by_cases hrx : ∃ q, s.phase = .rx q
  · obtain ⟨q, hp⟩ := hrx
    have hp' := hst.phase.trans hp
    have ha' := hst.readAnswer
    cases ha : s.readAnswer with
    | none => rwa [receive_waiting ha, receive_waiting (ha'.trans ha)]
    | some a =>
      cases a with
      | ok =>
        by_cases hn : q.size ≤ s.transport.rxStream.length
        · rw [receive_ok hp ha hn, receive_ok hp' (ha'.trans ha) (hst.transport ▸ hn), hst.transport]
          exact finish_blind _ _ _ (takenState_blind _ s t hst)
        · have hfew := Nat.lt_of_not_le hn
          rwa [receive_tooFew hp ha hfew, receive_tooFew hp' (ha'.trans ha) (hst.transport ▸ hfew)]
      | short k j =>
        rw [receive_short hp ha, receive_short hp' (ha'.trans ha)]
        exact finish_blind _ _ _ (clearing_blind _ s t hst)
      | ioFail j =>
        rw [receive_ioFail hp ha, receive_ioFail hp' (ha'.trans ha)]
        exact finish_blind _ _ _ (clearing_blind _ s t hst)
  · have hno := not_exists.1 hrx
    rwa [receive_other hno, receive_other fun q => hst.phase ▸ hno q]

theorem perform_blind (op : InFlight) : GhostBlind (perform op) :=
  receive_blind.comp (transmit_blind.comp (begunState_blind op))

/-! ## Accepting requests, and the levels below the port -/

theorem accept_blind {f : State → State} (hf : GhostBlind f) : GhostBlind fun s => accept s f := by
  intro s t hst
  by_cases hp : s.phase = .idle
  · simpa only [accept_idle hp, accept_idle (hst.phase.trans hp)] using hf s t hst
  · simpa only [accept_busy hp, accept_busy (hst.phase ▸ hp)] using hst

theorem withChannel_blind {ch : Byte} {f : Fin NCH → State → State} (hf : ∀ c, GhostBlind (f c)) :
    GhostBlind (withChannel ch f) := by
  intro s t hst
  obtain ⟨c, hc, -⟩ | ⟨hgt, -⟩ := checkChannel_cases ch
  · simpa only [withChannel_valid hc] using hf c s t hst
  · simpa only [withChannel_invalid hgt] using finish_blind _ s t hst

/-- A channel operation that sends a frame does not read the flag, as long as its frame does not. -/
theorem sends_blind (ch : Byte) (op : Fin NCH → InFlight) :
    GhostBlind fun s => accept s (withChannel ch fun c => perform (op c)) :=
  accept_blind (withChannel_blind fun c => perform_blind (op c))

theorem illegal_blind (code : OpCode) : GhostBlind fun s => accept s (raise (.illegalOperation code)) :=
  accept_blind (finish_blind (.error (.illegalOperation code)))

theorem setTarget_blind (c : Fin NCH) (v : U16) :
    GhostBlind fun s => perform (.setTarget c (s.clampedTarget c v)) s := by
  intro s t hst
  simp only [State.clampedTarget, hst.entry]
  exact perform_blind _ s t hst

theorem isMoving_blind (c : Fin NCH) :
    GhostBlind fun s =>
      if (s.entry c).target = 0 then finish (.bool false) s else perform (.isMoving c (s.entry c).target) s := by
  intro s t hst
  simp only [hst.entry]
  split
  · exact finish_blind _ s t hst
  · exact perform_blind _ s t hst

theorem sendBody_blind (body : List Byte) : GhostBlind (sendBody body) := by
  intro s t hst
  by_cases h : ∃ op, s.phase = .tx op ∧ op.body = body
  · obtain ⟨op, hp, hb⟩ := h
    rw [sendBody_inFlight hp hb, sendBody_inFlight (hst.phase.trans hp) hb]
    exact transmit_blind s t hst
  · have hother : ∀ op, s.phase = .tx op → op.body ≠ body := fun op hp hb => h ⟨op, hp, hb⟩
    rwa [sendBody_other hother, sendBody_other (hst.phase ▸ hother)]

theorem takeResponse_blind (bytes : List Byte) : GhostBlind (takeResponse bytes) := by
  intro s t hst
  simp only [takeResponse, hst.arriving]
  split
  · exact receive_blind s t hst
  · exact hst

/-! ## Instructions and steps -/

/-- Every instruction is a change of the state that does not read the flag. -/
theorem exec_blind (i : Instr) : ∃ f, GhostBlind f ∧ ∀ s, exec i s = .next (f s) := by
  cases he : encode i with
  | body bytes => exact ⟨_, sendBody_blind bytes, fun s => exec_body s he⟩
  | response bytes => exact ⟨_, takeResponse_blind bytes, fun s => exec_response s he⟩
  | request r =>
    cases i with
    | setRange ch mn mx =>
      exact ⟨_, accept_blind (withChannel_blind fun c => (finish_blind .ok).comp (writeLimits_blind c mn mx)),
        fun _ => rfl⟩
    | setTarget ch v => exact ⟨_, accept_blind (withChannel_blind fun c => setTarget_blind c v), fun _ => rfl⟩
    | setSpeed ch v => exact ⟨_, sends_blind ch (.setSpeed · v), fun _ => rfl⟩
    | setAccel ch v => exact ⟨_, sends_blind ch (.setAccel · v), fun _ => rfl⟩
    | getPosition ch => exact ⟨_, sends_blind ch .getPosition, fun _ => rfl⟩
    | isMoving ch => exact ⟨_, accept_blind (withChannel_blind isMoving_blind), fun _ => rfl⟩
    | getMovingState => exact ⟨_, accept_blind (perform_blind .getMovingState), fun _ => rfl⟩
    | runScriptSubroutine n => exact ⟨_, accept_blind (perform_blind (.runScriptSubroutine n)), fun _ => rfl⟩
    | stopScript => exact ⟨_, accept_blind (perform_blind .stopScript), fun _ => rfl⟩
    | reserved9 => exact ⟨_, illegal_blind 0x9, fun _ => rfl⟩
    | reservedA => exact ⟨_, illegal_blind 0xA, fun _ => rfl⟩
    | reservedB => exact ⟨_, illegal_blind 0xB, fun _ => rfl⟩
    | reservedC => exact ⟨_, illegal_blind 0xC, fun _ => rfl⟩
    | reservedD => exact ⟨_, illegal_blind 0xD, fun _ => rfl⟩
    | reservedE => exact ⟨_, illegal_blind 0xE, fun _ => rfl⟩
    | reservedF => exact ⟨_, illegal_blind 0xF, fun _ => rfl⟩
    | _ => cases he

theorem exec_sameButGhost (i : Instr) {s t : State} (hst : SameButGhost s t) :
    OutcomesSameButGhost (exec i s) (exec i t) := by
  obtain ⟨f, hf, hexec⟩ := exec_blind i
  rw [hexec, hexec]
  exact hf s t hst

theorem step_sameButGhost {s t : State} (hst : SameButGhost s t) : OutcomesSameButGhost (step s) (step t) := by
  cases ho : s.owner with
  | some a =>
    have ho' := hst.owner.trans ho
    cases a with
    | close =>
      rw [step_close ho, step_close ho']
      exact congrArg (fun u : State => { u with owner := none, transport := { u.transport with closed := true } }) hst
    | reset args =>
      by_cases hp : s.phase = .idle
      · rw [step_reset ho hp, step_reset ho' (hst.phase.trans hp), hst.transport, hst.requests]
        rfl
      · rw [step_reset_busy ho hp, step_reset_busy ho' (hst.phase ▸ hp)]
        rfl
  | none =>
    have ho' := hst.owner.trans ho
    cases hn : s.nextPacket with
    | none =>
      rw [step_of_no_packet ho hn, step_of_no_packet ho' (hst.nextPacket.trans hn)]
      exact receive_blind s t hst
    | some p =>
      obtain ⟨i, hi⟩ := nextPacket_decodes hn
      rw [step_of_nextPacket ho hn hi, step_of_nextPacket ho' (hst.nextPacket.trans hn) hi]
      exact exec_sameButGhost i (consume_blind s t hst)

/-- Settles O43, from the blindness of every part of an instruction and a step. -/
theorem ghostFlagIsNeverRead : Obligations.GhostFlagIsNeverRead :=
  ⟨fun i _ _ => exec_sameButGhost i, fun _ _ => step_sameButGhost⟩

end Sys2Proof.Machine
end

section
/-! PROOF. The trace as whole frames: it is the frames of a list of commands, the parser reads those back, and every
step keeps it so until a write or a read fails. -/

namespace Sys2Proof.Machine

/-! ## Whole frames are the frames of commands -/

/-- A command that some operation of the block sends, with a value that fits the wire. -/
def IsSentCommand (i : Instr) : Prop := i.wf = true ∧ (InFlight.ofCommand i).isSome = true

/-- The frame of a wire command; the instructions of the other levels have none. -/
def commandFrame (mode : AddrMode) (d : Byte) (i : Instr) : List Byte :=
  match encode i with
  | .body body => frame mode d body
  | .request _ => []
  | .response _ => []

theorem commandFrame_of_encode {mode : AddrMode} {d : Byte} {i : Instr} {body : List Byte}
    (he : encode i = .body body) : commandFrame mode d i = frame mode d body := by
  simp [commandFrame, he]

/-- What an operation sends is on the level of command bodies. -/
theorem IsSentCommand.encode {i : Instr} (h : IsSentCommand i) : ∃ body, encode i = .body body := by
  obtain ⟨-, hsent⟩ := h
  cases i with
  | wireSetTarget ch v => exact ⟨_, rfl⟩
  | wireSetSpeed ch v => exact ⟨_, rfl⟩
  | wireSetAcceleration ch v => exact ⟨_, rfl⟩
  | wireGetPosition ch => exact ⟨_, rfl⟩
  | wireGetMovingState => exact ⟨_, rfl⟩
  | wireRunScriptSubroutine n => exact ⟨_, rfl⟩
  | wireStopScript => exact ⟨_, rfl⟩
  | _ => cases hsent

theorem isCommandFrame_iff {mode : AddrMode} {d : Byte} {f : List Byte} :
    IsCommandFrame mode d f ↔ ∃ i, IsSentCommand i ∧ f = commandFrame mode d i := by
  constructor
  · rintro ⟨i, body, hwf, hsent, he, rfl⟩
    exact ⟨i, ⟨hwf, hsent⟩, (commandFrame_of_encode he).symm⟩
  · rintro ⟨i, hi, rfl⟩
    obtain ⟨body, he⟩ := hi.encode
    exact ⟨i, body, hi.1, hi.2, he, commandFrame_of_encode he⟩

theorem WholeFrames.append {mode : AddrMode} {d : Byte} {a b : List Byte} (ha : WholeFrames mode d a)
    (hb : WholeFrames mode d b) : WholeFrames mode d (a ++ b) := by
  obtain ⟨fs, rfl, hfs⟩ := ha
  obtain ⟨gs, rfl, hgs⟩ := hb
  exact ⟨fs ++ gs, List.flatten_append.symm, fun f hf => (List.mem_append.1 hf).elim (hfs f) (hgs f)⟩

theorem IsCommandFrame.wholeFrames {mode : AddrMode} {d : Byte} {f : List Byte} (h : IsCommandFrame mode d f) :
    WholeFrames mode d f :=
  ⟨[f], by simp, by simpa using h⟩

/-- Each of the frames is a command's, so a list of commands spells the trace. -/
theorem WholeFrames.exists_commands {mode : AddrMode} {d : Byte} {trace : List Byte} (h : WholeFrames mode d trace) :
    ∃ cmds : List Instr, (∀ i ∈ cmds, IsSentCommand i) ∧ trace = (cmds.map (commandFrame mode d)).flatten := by
  obtain ⟨frames, rfl, hframes⟩ := h
  induction frames with
  | nil => exact ⟨[], by simp, rfl⟩
  | cons f fs ih =>
    obtain ⟨hf, hfs⟩ := List.forall_mem_cons.1 hframes
    obtain ⟨i, hi, rfl⟩ := isCommandFrame_iff.1 hf
    obtain ⟨is, his, heq⟩ := ih hfs
    exact ⟨i :: is, List.forall_mem_cons.2 ⟨hi, his⟩, by simp [heq]⟩

/-! ## The parser on whole frames -/

/-- The parser reads a sent command off the front of its bytes, and leaves the rest (R98). -/
theorem decodeFrame_commandFrame (mode : AddrMode) (d : Byte) {i : Instr} (hi : IsSentCommand i) (rest : List Byte) :
    ∃ addr, decodeFrame mode (commandFrame mode d i ++ rest) = .ok (addr, i, rest) := by
  obtain ⟨body, he⟩ := hi.encode
  have hbody := decodeBody_of_encode hi.1 he rest
  rw [commandFrame_of_encode he]
  cases mode with
  | addressed => exact ⟨some d, by simp [frame, header, decodeFrame, hbody]⟩
  | pointToPoint => exact ⟨none, by simp [frame, header, decodeFrame, hbody]⟩

theorem decodeFrame_nil (mode : AddrMode) : decodeFrame mode [] = .error .missingByte := by
  cases mode <;> rfl

/-- The parser finds no command in no bytes, so a frame has some. -/
theorem commandFrame_ne_nil (mode : AddrMode) (d : Byte) {i : Instr} (hi : IsSentCommand i) :
    commandFrame mode d i ≠ [] := by
  intro hnil
  obtain ⟨addr, h⟩ := decodeFrame_commandFrame mode d hi []
  rw [hnil, List.append_nil, decodeFrame_nil] at h
  cases h

/-- One frame read, the rest read: all read. -/
theorem decodeFrames_cons {mode : AddrMode} {k : Nat} {bytes rest : List Byte} {addr : Option Byte} {i : Instr}
    {is : List Instr} (hfront : decodeFrame mode bytes = .ok (addr, i, rest))
    (hrest : decodeFrames mode k rest = .ok is) : decodeFrames mode (k + 1) bytes = .ok (i :: is) := by
  cases bytes with
  | nil => rw [decodeFrame_nil] at hfront; cases hfront
  | cons b bs => simp [decodeFrames, hfront, hrest]

/-- The repeated parser reads back the commands of a succession of frames, allowed a frame a byte or more. -/
theorem decodeFrames_commandFrames (mode : AddrMode) (d : Byte) {cmds : List Instr}
    (h : ∀ i ∈ cmds, IsSentCommand i) (k : Nat) (hk : (cmds.map (commandFrame mode d)).flatten.length ≤ k) :
    decodeFrames mode k (cmds.map (commandFrame mode d)).flatten = .ok cmds := by
  induction cmds generalizing k with
  | nil => cases k <;> rfl
  | cons i is ih =>
    obtain ⟨hi, his⟩ := List.forall_mem_cons.1 h
    have hpos := List.length_pos_iff.2 (commandFrame_ne_nil mode d hi)
    rw [List.map_cons, List.flatten_cons] at hk ⊢
    rw [List.length_append] at hk
    obtain ⟨addr, hfront⟩ := decodeFrame_commandFrame mode d hi (is.map (commandFrame mode d)).flatten
    obtain ⟨k, rfl⟩ := Nat.exists_eq_add_of_lt (Nat.lt_of_lt_of_le (Nat.add_pos_left hpos _) hk)
    rw [Nat.zero_add]
    exact decodeFrames_cons hfront (ih his k (by omega))

/-- Settles O12: the trace is the frames of some commands, and the parser reads exactly those. -/
theorem wholeFramesHaveOneReading : Obligations.WholeFramesHaveOneReading := by
  intro mode d trace h
  obtain ⟨cmds, hcmds, rfl⟩ := h.exists_commands
  exact ⟨cmds, decodeFrames_commandFrames mode d hcmds _ le_rfl, hcmds, rfl⟩

/-! ## Every step keeps the trace whole unless an operation has failed -/

/-- Sending whole frames keeps the trace whole; anything may be sent once a `TransportError` stands among the results. -/
theorem State.WholeUnlessFailed.of_append {s t : State} {sent : List Byte} (hs : s.WholeUnlessFailed)
    (hconf : SameConfiguration s t) (hres : s.results ⊆ t.results) (htrace : t.txTrace = s.txTrace ++ sent)
    (hsent : WholeFrames s.addrMode s.devAddr sent ∨ Result.error .transport ∈ t.results) : t.WholeUnlessFailed := by
  intro hok
  obtain ⟨hdev, hmode⟩ := hconf
  rw [hdev, hmode, htrace]
  exact (hs fun hmem => hok (hres hmem)).append (hsent.resolve_right hok)

/-- Sending nothing keeps the trace whole. -/
theorem State.WholeUnlessFailed.of_sameTrace {s t : State} (hs : s.WholeUnlessFailed) (hconf : SameConfiguration s t)
    (hres : s.results ⊆ t.results) (htrace : t.txTrace = s.txTrace) : t.WholeUnlessFailed :=
  hs.of_append hconf hres (htrace.trans (List.append_nil _).symm) (.inl (wholeFrames_nil _ _))

/-- The TX phase sends the whole frame in flight, or a first part of it and ends in `TransportError`. -/
theorem State.WholeUnlessFailed.transmit {s : State} (hs : s.WholeUnlessFailed) : (transmit s).WholeUnlessFailed := by
  obtain ⟨new, hnew, -⟩ := transmit_results s
  have hres : s.results ⊆ (Machine.transmit s).results := hnew ▸ List.subset_append_left _ _
  obtain ⟨sent, htrace, hsent⟩ := transmit_trace s
  refine hs.of_append (sameConfiguration_kept.transmits s) hres htrace ?_
  obtain rfl | ⟨op, -, -, rfl | hfailed⟩ := hsent
  · exact .inl (wholeFrames_nil _ _)
  · exact .inl (inFlight_isCommandFrame _ _ op).wholeFrames
  · exact .inr hfailed

theorem State.WholeUnlessFailed.receive {s : State} (hs : s.WholeUnlessFailed) : (receive s).WholeUnlessFailed := by
  have hres : s.results ⊆ (Machine.receive s).results := by
    obtain h | ⟨-, r, h⟩ := receive_results s <;> simp [h]
  obtain ⟨-, -, -, -, htrace, -⟩ := receive_frame s
  exact hs.of_sameTrace (sameConfiguration_kept.receives s) hres htrace

theorem wholeUnlessFailed_kept : KeptByPhases fun s t => s.WholeUnlessFailed → t.WholeUnlessFailed where
  refl _ := id
  trans _ _ _ hst htu := htu ∘ hst
  endsAtOnce _ _ _ _ hs := hs.of_sameTrace ⟨rfl, rfl⟩ (by simp) rfl
  setsRange _ _ _ _ hs := hs.of_sameTrace ⟨rfl, rfl⟩ (by simp) rfl
  begins _ _ := id
  transmits _ hs := hs.transmit
  receives _ hs := hs.receive
  requests _ _ := id
  closes _ := id

/-- A predicate that every construction meets and each phase keeps is kept by every step, a reset among them. -/
theorem KeptByPhases.step_keeps {P : State → Prop} (hkept : KeptByPhases fun s t => P s → P t)
    (hconstruct : ∀ args tr rs, P (State.construct args tr rs)) {s t : State} (hs : P s)
    (h : Machine.step s = .next t) : P t := by
  by_cases hreset : ∃ args, s.owner = some (.reset args)
  · obtain ⟨args, ho⟩ := hreset
    obtain ⟨args, -, -, rfl⟩ | ⟨hclose, -⟩ | ⟨hnone, -⟩ | ⟨hnone, -⟩ := step_cases h
    · exact hconstruct args _ _
    · cases ho.symm.trans hclose
    · cases ho.symm.trans hnone
    · cases ho.symm.trans hnone
  · exact hkept.step h (not_exists.1 hreset) hs

/-- Settles O39: a reset empties the trace, and every other step keeps it whole phase by phase. -/
theorem stepKeepsWholeUnlessFailed : Obligations.StepKeepsWholeUnlessFailed :=
  fun _ _ => wholeUnlessFailed_kept.step_keeps fun _ _ _ _ => wholeFrames_nil _ _

end Sys2Proof.Machine
end

section
/-! PROOF. How the Transport's answers end an operation or make it wait: a step carries the phase in flight on, a
query whose write is answered OK stands before its read, and each answer to that read is one state. -/

namespace Sys2Proof.Machine

/-! ## A step carries on the phase in flight -/

/-- The body of an operation in flight is a well-formed command's, which its frame without a header shows. -/
theorem InFlight.exists_encode_eq_body (op : InFlight) : ∃ i : Instr, i.wf = true ∧ encode i = .body op.body := by
  obtain ⟨i, body, hwf, -, he, hframe⟩ := inFlight_isCommandFrame .pointToPoint 0 op
  obtain rfl : op.body = body := hframe
  exact ⟨i, hwf, he⟩

theorem encode_of_decodeResponse {bytes : List Byte} {i : Instr} (h : decodeResponse bytes = .ok i) :
    encode i = .response bytes := by
  match bytes with
  | [] => cases h
  | [state] => cases h; rfl
  | [lsb, msb] => cases h; rfl
  | _ :: _ :: _ :: _ => cases h

/-- A step in TX is the TX phase. -/
theorem step_tx {s : State} {op : InFlight} (ho : s.owner = none) (hp : s.phase = .tx op) :
    step s = .next (transmit s) := by
  obtain ⟨i, hwf, he⟩ := op.exists_encode_eq_body
  have hd : decode (.body op.body) = .ok i := he ▸ encodeDecodeRoundTrip i hwf
  rw [step_of_nextPacket ho (by simp [State.nextPacket, hp]) hd, consume_busy (by simp [hp]), exec_body s he,
    sendBody_inFlight hp rfl]

/-- A step in RX is the RX phase, whether or not a response is about to be returned. -/
theorem step_rx {s : State} {q : Query} (ho : s.owner = none) (hp : s.phase = .rx q) :
    step s = .next (receive s) := by
  cases ha : s.arriving with
  | none => exact step_of_no_packet ho (by simp [State.nextPacket, hp, ha])
  | some bytes =>
    have hn : s.nextPacket = some (.response bytes) := by simp [State.nextPacket, hp, ha]
    obtain ⟨i, hi⟩ := nextPacket_decodes hn
    rw [step_of_nextPacket ho hn hi, consume_busy (by simp [hp]), exec_response s (encode_of_decodeResponse hi)]
    simp [takeResponse, ha]

/-- A state that a step leaves unchanged is left unchanged by any number of them. -/
theorem run_of_step_self {M : Host.Core} {s : M.State} (h : M.step s = .next s) (k : Nat) : M.run k s = .next s := by
  induction k with
  | zero => rfl
  | succ k ih =>
    rw [Host.Core.run, h]
    exact ih

/-! ## A query before its read -/

/-- The state in which a query's frame is whole on the wire and its read is in flight, before a Transport `tr`. -/
def askedState (op : InFlight) (q : Query) (tr : Transport) (s : State) : State :=
  { s with
    phase := .rx q
    txTrace := s.txTrace ++ frame s.addrMode s.devAddr op.body
    transport := tr }

section
variable {i : Instr} {s : State} {op : InFlight} {q : Query} {rx : List Byte} {ws : List WriteAnswer}
  {rs : List ReadAnswer}

/-- A query whose write is answered OK goes on to its read. -/
theorem exec_query (hp : s.phase = .idle) (hst : starts i s = some op) (hq : op.query? = some q)
    (ht : s.transport = { rxStream := rx, writeAnswers := .ok :: ws, readAnswers := rs, closed := false }) :
    exec i s = .next (receive
      (askedState op q { rxStream := rx, writeAnswers := ws, readAnswers := rs, closed := false } s)) := by
  rw [exec_of_starts hp hst, perform_ok (by rw [ht]) (by rw [ht]), afterWrite_query hq, ht]
  rfl

/-- A read with no answer, or with an OK answer and too few bytes, goes on waiting. -/
theorem receive_unanswered (hp : s.phase = .rx q) (hc : s.transport.closed = false)
    (h : s.transport.readAnswers = [] ∨
      (s.transport.readAnswers.head? = some .ok ∧ s.transport.rxStream.length < q.size)) : receive s = s := by
  obtain hnone | ⟨hok, hfew⟩ := h
  · exact receive_waiting (by simp [readAnswer_open hc, hnone])
  · exact receive_tooFew hp (readAnswer_eq_ok.2 ⟨hc, hok⟩) hfew

/-- A short read within the spec's bounds (R61) takes what the Transport's answer says. -/
theorem shortTaken_of_le {n k j : Nat} (hk : k < n) (hj : j ≤ k) : shortTaken n k j = j := by
  unfold shortTaken
  omega

/-- A short read takes its bytes, clears the ghost flag and ends the query in `ShortReadError`. -/
theorem receive_shortAnswer {k j : Nat} (hk : k < q.size) (hj : j ≤ k) (hp : s.phase = .rx q)
    (ht : s.transport = { rxStream := rx, writeAnswers := ws, readAnswers := .short k j :: rs, closed := false }) :
    receive s = { s with
      phase := .idle
      transport := { rxStream := rx.drop j, writeAnswers := ws, readAnswers := rs, closed := false }
      rxSync := false
      results := s.results ++ [.error .shortRead] } := by
  rw [receive_short hp (readAnswer_cons (by rw [ht]) (by rw [ht])), shortTaken_of_le hk hj]
  simp [finish, takenState, ht]

/-- A failed read takes its bytes, clears the ghost flag and ends the query in `TransportError`. -/
theorem receive_failAnswer {j : Nat} (hp : s.phase = .rx q)
    (ht : s.transport = { rxStream := rx, writeAnswers := ws, readAnswers := .ioFail j :: rs, closed := false }) :
    receive s = { s with
      phase := .idle
      transport := { rxStream := rx.drop j, writeAnswers := ws, readAnswers := rs, closed := false }
      rxSync := false
      results := s.results ++ [.error .transport] } := by
  rw [receive_ioFail hp (readAnswer_cons (by rw [ht]) (by rw [ht]))]
  simp [finish, takenState, ht]

end

/-! ## The obligations -/

/-- Settles O21: the failed write ends the operation, accepted just now or in flight. -/
theorem failedWriteEndsTheOperation : Obligations.FailedWriteEndsTheOperation := by
  intro i s op n ws hc hw
  refine ⟨fun hp hst => ?_, fun hp ho => ?_⟩
  · rw [exec_of_starts hp hst, perform_ioFail hc hw]
    simp [finish, hp]
  · rw [step_tx ho hp, transmit_ioFail hp (writeAnswer_cons hc hw)]
    simp [finish, sentState, hw]

/-- Settles O22: the short read ends the query, accepted just now or in flight. -/
theorem shortReadEndsTheQuery : Obligations.ShortReadEndsTheQuery := by
  intro i s op q k j rx ws rs hk hj _
  refine ⟨fun hp hst hq ht => ?_, fun hp ho ht => ?_⟩
  · rw [exec_query hp hst hq ht, receive_shortAnswer hk hj rfl rfl]
    simp [askedState, hp]
  · rw [step_rx ho hp, receive_shortAnswer hk hj hp ht]

/-- Settles O23: the failed read ends the query, accepted just now or in flight. -/
theorem failedReadEndsTheQuery : Obligations.FailedReadEndsTheQuery := by
  intro i s op q j rx ws rs
  refine ⟨fun hp hst hq ht => ?_, fun hp ho ht => ?_⟩
  · rw [exec_query hp hst hq ht, receive_failAnswer rfl rfl]
    simp [askedState, hp]
  · rw [step_rx ho hp, receive_failAnswer hp ht]

/-- Settles O24: without an answer each phase leaves the state as it is, and so does every step. -/
theorem unansweredTransportMakesTheBlockWait : Obligations.UnansweredTransportMakesTheBlockWait := by
  refine ⟨fun i s op hp hst hc hw => ?_, fun i s op q rx ws rs hp hst hq ht hwait => ?_,
    fun s op k ho hc hp hw => ?_, fun s q k ho hc hp hwait => ?_⟩
  · have hnone : (begunState op s).writeAnswer = none := by
      rw [writeAnswer_open (s := begunState op s) hc]
      simp [begunState, hw]
    rw [exec_of_starts hp hst, perform_eq, transmit_waiting hnone, receive_other (by simp)]
    rfl
  · rw [exec_query hp hst hq ht, receive_unanswered rfl rfl hwait]
    rfl
  · refine run_of_step_self (M := Sys2Proof.core) ?_ k
    change step s = .next s
    rw [step_tx ho hp, transmit_waiting (by simp [writeAnswer_open hc, hw])]
  · refine run_of_step_self (M := Sys2Proof.core) ?_ k
    change step s = .next s
    rw [step_rx ho hp, receive_unanswered hp hc hwait]

/-- Settles O50, field by field from what each write leaves in the entries. -/
theorem registerFileReadsWhatWasWritten : Obligations.RegisterFileReadsWhatWasWritten := by
  refine ⟨fun s c d v mn mx => ?_, construct_rf⟩
  rw [entry_writeTarget_same, entry_writeLimits_same]
  exact ⟨rfl, rfl, rfl, entry_writeTarget_other s v, rfl, rfl, rfl, entry_writeLimits_other s mn mx⟩

end Sys2Proof.Machine
end

section
/-! PROOF. The two packings as arithmetic: the 7/7 split keeps a value's low 14 bits and nothing else, the 8/8
combination keeps all 16, and one does not undo the other. -/

namespace Sys2Proof.Machine

/-! ## The 7/7 split -/

theorem split7_fst_toNat_lt (v : U16) : (split7 v).1.toNat < 128 := by
  rw [split7_fst_toNat]
  exact Nat.mod_lt _ (by decide)

theorem split7_snd_toNat_lt (v : U16) : (split7 v).2.toNat < 128 := by
  rw [split7_snd_toNat]
  exact Nat.mod_lt _ (by decide)

theorem setWidth_split7_fst (v : U16) : (split7 v).1.setWidth 16 = v &&& 0x7F := by
  apply BitVec.eq_of_toNat_eq
  rw [BitVec.toNat_setWidth, split7_fst_toNat, and_0x7F_toNat]
  omega

theorem setWidth_split7_snd (v : U16) : (split7 v).2.setWidth 16 = (v >>> 7) &&& 0x7F := by
  apply BitVec.eq_of_toNat_eq
  rw [BitVec.toNat_setWidth, split7_snd_toNat, and_0x7F_toNat, BitVec.toNat_ushiftRight, Nat.shiftRight_eq_div_pow]
  omega

theorem split7_fst_eq_extractLsb' (v : U16) : (split7 v).1 = (v.extractLsb' 0 7).setWidth 8 := by
  apply BitVec.eq_of_toNat_eq
  rw [split7_fst_toNat, BitVec.toNat_setWidth, BitVec.extractLsb'_toNat, Nat.shiftRight_eq_div_pow]
  omega

theorem split7_snd_eq_extractLsb' (v : U16) : (split7 v).2 = (v.extractLsb' 7 7).setWidth 8 := by
  apply BitVec.eq_of_toNat_eq
  rw [split7_snd_toNat, BitVec.toNat_setWidth, BitVec.extractLsb'_toNat, Nat.shiftRight_eq_div_pow]
  omega

/-- The split sees the low 14 bits only (R90). -/
theorem split7_congr {v w : U16} (h : v.toNat % 16384 = w.toNat % 16384) : split7 v = split7 w := by
  refine Prod.ext (BitVec.eq_of_toNat_eq ?_) (BitVec.eq_of_toNat_eq ?_)
  · rw [split7_fst_toNat, split7_fst_toNat]
    omega
  · rw [split7_snd_toNat, split7_snd_toNat]
    omega

theorem split7_and_0x3FFF (v : U16) : split7 (v &&& 0x3FFF) = split7 v :=
  split7_congr (by rw [and_0x3FFF_toNat, Nat.mod_mod])

theorem toNat_mod_of_extractLsb'_eq {v w : U16} (h : v.extractLsb' 0 14 = w.extractLsb' 0 14) :
    v.toNat % 16384 = w.toNat % 16384 := by
  simpa using congrArg BitVec.toNat h

theorem bodyB4_and_0x3FFF (opcode channel : Byte) (v : U16) :
    bodyB4 opcode channel v = bodyB4 opcode channel (v &&& 0x3FFF) := by
  rw [bodyB4, bodyB4, split7_and_0x3FFF]

/-- A value fits the wire exactly when cutting it to its low 14 bits leaves it whole. -/
theorem and_0x3FFF_eq_iff {v : U16} : v &&& 0x3FFF = v ↔ v.toNat ≤ 16383 := by
  rw [← BitVec.toNat_inj, and_0x3FFF_toNat]
  omega

theorem join7_split7 (v : U16) : join7 (split7 v).1 (split7 v).2 = v &&& 0x3FFF := by
  apply BitVec.eq_of_toNat_eq
  rw [join7_toNat (split7_fst_toNat_lt v) (split7_snd_toNat_lt v), split7_fst_toNat, split7_snd_toNat, and_0x3FFF_toNat]
  omega

/-- Two data bytes with bit 7 clear are the split of the value they join to. -/
theorem split7_join7 {lsb msb : Byte} (hl : lsb.toNat < 128) (hm : msb.toNat < 128) :
    split7 (join7 lsb msb) = (lsb, msb) := by
  have hfst : (split7 (join7 lsb msb)).1 = lsb := by
    apply BitVec.eq_of_toNat_eq
    rw [split7_fst_toNat, join7_toNat hl hm]
    omega
  have hsnd : (split7 (join7 lsb msb)).2 = msb := by
    apply BitVec.eq_of_toNat_eq
    rw [split7_snd_toNat, join7_toNat hl hm]
    omega
  exact Prod.ext hfst hsnd

/-! ## The 8/8 combination -/

theorem and_0xFF_toNat (w : U16) : (w &&& 0xFF).toNat = w.toNat % 256 := by
  rw [BitVec.toNat_and]
  exact Nat.and_two_pow_sub_one_eq_mod w.toNat 8

/-- The two bytes of a 16-bit value combine to it (R92). -/
theorem decPosition_bytes (p : U16) : decPosition ((p &&& 0xFF).setWidth 8) ((p >>> 8).setWidth 8) = p := by
  apply BitVec.eq_of_toNat_eq
  rw [decPosition_toNat, BitVec.toNat_setWidth, BitVec.toNat_setWidth, and_0xFF_toNat, BitVec.toNat_ushiftRight,
    Nat.shiftRight_eq_div_pow]
  omega

/-- The two parts of the combination have no bit in common (R92). -/
theorem decPosition_parts_disjoint (b0 b1 : Byte) : (b1.setWidth 16 <<< 8) &&& b0.setWidth 16 = (0 : U16) := by
  ext i hi
  by_cases h : i < 8
  · simp [h]
  · simp [h, BitVec.getLsbD_of_ge b0 i (by omega)]

theorem decPosition_and_0xFF (b0 b1 : Byte) : decPosition b0 b1 &&& 0xFF = b0.setWidth 16 := by
  apply BitVec.eq_of_toNat_eq
  rw [and_0xFF_toNat, decPosition_toNat, BitVec.toNat_setWidth]
  omega

theorem decPosition_shiftRight (b0 b1 : Byte) : decPosition b0 b1 >>> 8 = b1.setWidth 16 := by
  apply BitVec.eq_of_toNat_eq
  rw [BitVec.toNat_ushiftRight, decPosition_toNat, BitVec.toNat_setWidth, Nat.shiftRight_eq_div_pow]
  omega

theorem decMovingState_eq_false_iff {b0 : Byte} : decMovingState b0 = false ↔ b0 = 0 := by
  simp [decMovingState]

/-- Reading a 7/7 split as an 8/8 pair gives the value back only where the high byte is 0 (R93 (c)). -/
theorem decPosition_split7_eq_iff {v : U16} : decPosition (split7 v).1 (split7 v).2 = v ↔ v.toNat ≤ 127 := by
  rw [← BitVec.toNat_inj, decPosition_toNat, split7_fst_toNat, split7_snd_toNat]
  omega

/-! ## The obligations on the packings -/

/-- Settles O1: each byte is a remainder of the value, and so is each of the fields it is compared with. -/
theorem splitTakesSevenAndSevenBits : Obligations.SplitTakesSevenAndSevenBits := fun v _ =>
  ⟨setWidth_split7_fst v, setWidth_split7_snd v, split7_fst_eq_extractLsb' v, split7_snd_eq_extractLsb' v,
    fun _ hlow => split7_congr (toNat_mod_of_extractLsb'_eq hlow), rfl, rfl, rfl⟩

/-- Settles O2: the split of a value is the split of its low 14 bits, and both its bytes stay below 128. -/
theorem highValueBitsAreNotSent : Obligations.HighValueBitsAreNotSent := fun ch v =>
  ⟨bodyB4_and_0x3FFF _ ch v, bodyB4_and_0x3FFF _ ch v, bodyB4_and_0x3FFF _ ch v,
    BitVec.msb_eq_false_iff_two_mul_lt.2 (by have := split7_fst_toNat_lt v; omega),
    BitVec.msb_eq_false_iff_two_mul_lt.2 (by have := split7_snd_toNat_lt v; omega),
    by decide, by decide, by decide⟩

/-- Settles O3: the 7/7 recombination is `join7` and the 8/8 one is `decPosition`, each read off its arithmetic. -/
theorem packingsAreNotInterchangeable : Obligations.PackingsAreNotInterchangeable := fun v p =>
  ⟨join7_split7 v, by rw [← and_0x3FFF_eq_iff, ← join7_split7 v, join7], decPosition_bytes p,
    decPosition_split7_eq_iff, by decide, by decide⟩

/-- Settles O4: the position parser is `256 * b1 + b0`, whose quotient and remainder by 256 are the bytes. -/
theorem responseParsersLoseNoBit : Obligations.ResponseParsersLoseNoBit := fun b0 b1 p =>
  ⟨rfl, decPosition_parts_disjoint b0 b1, decPosition_toNat b0 b1, decPosition_and_0xFF b0 b1,
    decPosition_shiftRight b0 b1, decPosition_bytes p, decMovingState_eq_false_iff⟩

end Sys2Proof.Machine
end

section
/-! PROOF. The body decoder accepts exactly what the encoder writes: an equation per format for what it accepts and
for what it refuses, and from them the opcode table, the frames and the refusals. -/

namespace Sys2Proof.Machine

/-! ## The payloads -/

theorem decodeB4_missingByte (make : Byte → U16 → Instr) {payload : List Byte} (h : payload.length < 3) :
    decodeB4 make payload = .error .missingByte := by
  match payload with
  | [] => rfl
  | [_] => rfl
  | [_, _] => rfl
  | _ :: _ :: _ :: rest => simp only [List.length_cons] at h; omega

theorem decodeB4_highBitSet (make : Byte → U16 → Instr) (ch : Byte) {lsb msb : Byte} (rest : List Byte)
    (h : 128 ≤ lsb.toNat ∨ 128 ≤ msb.toNat) : decodeB4 make (ch :: lsb :: msb :: rest) = .error .highBitSet := by
  have hbits : (lsb.msb || msb.msb) = true := by simpa [BitVec.msb_eq_decide] using h
  rw [decodeB4, if_pos hbits]

/-- What a `B4` payload is read from is the payload of a value that fits the wire. -/
theorem decodeB4_eq_ok {make : Byte → U16 → Instr} {payload rest : List Byte} {i : Instr}
    (h : decodeB4 make payload = .ok (i, rest)) : ∃ ch v, fits14 v = true ∧ i = make ch v ∧
      payload = ch :: (split7 v).1 :: (split7 v).2 :: rest := by
  by_cases hlen : payload.length < 3
  · rw [decodeB4_missingByte make hlen] at h
    cases h
  obtain ⟨ch, lsb, msb, tail, rfl⟩ : ∃ ch lsb msb tail, payload = ch :: lsb :: msb :: tail := by
    match payload, hlen with
    | ch :: lsb :: msb :: tail, _ => exact ⟨ch, lsb, msb, tail, rfl⟩
  by_cases hhigh : 128 ≤ lsb.toNat ∨ 128 ≤ msb.toNat
  · rw [decodeB4_highBitSet make ch tail hhigh] at h
    cases h
  obtain ⟨hl, hm⟩ : lsb.toNat < 128 ∧ msb.toNat < 128 := by omega
  rw [decodeB4_ok make ch lsb msb tail hl hm] at h
  cases h
  refine ⟨ch, join7 lsb msb, ?_, rfl, by rw [split7_join7 hl hm]⟩
  rw [fits14, join7_toNat hl hm, decide_eq_true_eq]
  omega

theorem decodeB2_eq_ok {make : Byte → Instr} {payload rest : List Byte} {i : Instr}
    (h : decodeB2 make payload = .ok (i, rest)) : ∃ arg, i = make arg ∧ payload = arg :: rest := by
  cases payload with
  | nil => cases h
  | cons arg tail => cases h; exact ⟨arg, rfl, rfl⟩

/-! ## Bodies -/

theorem decodeBody_unknownOpcode {opcode : Byte} (rest : List Byte)
    (h : opcode ∉ ([0x04, 0x07, 0x09, 0x10, 0x13, 0x27, 0x24] : List Byte)) :
    decodeBody (opcode :: rest) = .error (.unknownOpcode opcode) := by
  simp only [List.mem_cons, List.not_mem_nil, or_false, not_or] at h
  obtain ⟨h04, h07, h09, h10, h13, h27, h24⟩ := h
  exact (if_neg h04).trans <| (if_neg h07).trans <| (if_neg h09).trans <| (if_neg h10).trans <|
    (if_neg h13).trans <| (if_neg h27).trans (if_neg h24)

/-- The opcodes of R95 are the only ones accepted. -/
theorem opcode_mem_of_decodeBody {opcode : Byte} {bytes rest : List Byte} {i : Instr}
    (h : decodeBody (opcode :: bytes) = .ok (i, rest)) :
    opcode ∈ ([0x04, 0x07, 0x09, 0x10, 0x13, 0x27, 0x24] : List Byte) := by
  by_contra hop
  rw [decodeBody_unknownOpcode bytes hop] at h
  cases h

/-- The three value commands share the `B4` payload. -/
theorem decodeBody_b4 {opcode : Byte} (h : opcode ∈ ([0x04, 0x07, 0x09] : List Byte)) :
    ∃ make, ∀ payload, decodeBody (opcode :: payload) = decodeB4 make payload := by
  simp only [List.mem_cons, List.not_mem_nil, or_false] at h
  obtain rfl | rfl | rfl := h
  · exact ⟨.wireSetTarget, fun _ => rfl⟩
  · exact ⟨.wireSetSpeed, fun _ => rfl⟩
  · exact ⟨.wireSetAcceleration, fun _ => rfl⟩

/-- The converse of `decodeBody_of_encode`: what is read is the body of a well-formed command, and the rest. -/
theorem encode_of_decodeBody {bytes rest : List Byte} {i : Instr} (h : decodeBody bytes = .ok (i, rest)) :
    i.wf = true ∧ ∃ body, encode i = .body body ∧ bytes = body ++ rest := by
  cases bytes with
  | nil => cases h
  | cons opcode payload =>
    have hop := opcode_mem_of_decodeBody h
    simp only [List.mem_cons, List.not_mem_nil, or_false] at hop
    obtain rfl | rfl | rfl | rfl | rfl | rfl | rfl := hop
    · obtain ⟨ch, v, hv, rfl, rfl⟩ := decodeB4_eq_ok (make := .wireSetTarget) h
      exact ⟨hv, _, rfl, rfl⟩
    · obtain ⟨ch, v, hv, rfl, rfl⟩ := decodeB4_eq_ok (make := .wireSetSpeed) h
      exact ⟨hv, _, rfl, rfl⟩
    · obtain ⟨ch, v, hv, rfl, rfl⟩ := decodeB4_eq_ok (make := .wireSetAcceleration) h
      exact ⟨hv, _, rfl, rfl⟩
    · obtain ⟨ch, rfl, rfl⟩ := decodeB2_eq_ok (make := .wireGetPosition) h
      exact ⟨rfl, _, rfl, rfl⟩
    · cases h
      exact ⟨rfl, _, rfl, rfl⟩
    · obtain ⟨n, rfl, rfl⟩ := decodeB2_eq_ok (make := .wireRunScriptSubroutine) h
      exact ⟨rfl, _, rfl, rfl⟩
    · cases h
      exact ⟨rfl, _, rfl, rfl⟩

/-- A packet with a body is accepted only where nothing is left over. -/
theorem decodeBody_of_decode {bytes : List Byte} {i : Instr} (h : decode (.body bytes) = .ok i) :
    decodeBody bytes = .ok (i, []) := by
  simp only [decode] at h
  split at h
  next j hbody => cases h; exact hbody
  next => cases h
  next => cases h

/-! ## Responses and requests -/

theorem wf_of_encode_response {i : Instr} {bytes : List Byte} (he : encode i = .response bytes) : i.wf = true := by
  cases i with
  | positionResponse lsb msb => rfl
  | movingStateResponse st => rfl
  | _ => cases he

/-- The instruction read from a request is written back with the request's select code. -/
theorem encode_decodeRequest (r : Request) : ∃ r' : Request, encode (decodeRequest r) = .request r' ∧ r'.op = r.op := by
  obtain ⟨op, ch, a, b⟩ := r
  obtain rfl | rfl | rfl | rfl | rfl | rfl | rfl | rfl | rfl | rfl | rfl | rfl | rfl | rfl | rfl | rfl :=
    opCode_cases op <;> exact ⟨_, rfl, rfl⟩

/-! ## Frames -/

theorem frame_addressed (d : Byte) (body : List Byte) : frame .addressed d body = [0xAA, d] ++ body := rfl

theorem frame_pointToPoint (d : Byte) (body : List Byte) : frame .pointToPoint d body = body := rfl

theorem decodeFrame_addressed {d : Byte} {bytes rest : List Byte} {i : Instr} (h : decodeBody bytes = .ok (i, rest)) :
    decodeFrame .addressed (0xAA :: d :: bytes) = .ok (some d, i, rest) := by
  simp [decodeFrame, headerByte, h]

theorem decodeFrame_pointToPoint {bytes rest : List Byte} {i : Instr} (h : decodeBody bytes = .ok (i, rest)) :
    decodeFrame .pointToPoint bytes = .ok (none, i, rest) := by
  simp [decodeFrame, h]

theorem decodeFrame_badHeader {h : Byte} (d : Byte) (rest : List Byte) (hne : h ≠ 0xAA) :
    decodeFrame .addressed (h :: d :: rest) = .error (.badHeader h) :=
  if_neg hne

/-! ## The obligations on the decoder and the frames -/

/-- Settles O5: the table's rows are the definitions, and any other opcode is refused. -/
theorem opcodeTableIsComplete : Obligations.OpcodeTableIsComplete :=
  ⟨fun _ _ => ⟨rfl, rfl, rfl, rfl, rfl, rfl, rfl⟩, fun _ _ _ => ⟨rfl, rfl, rfl, rfl, rfl, rfl, rfl, rfl⟩,
    fun _ _ _ _ => opcode_mem_of_decodeBody⟩

/-- Settles O8: what the decoder accepts is an encoding, level by level. -/
theorem decodedBytesReencode : Obligations.DecodedBytesReencode := by
  refine ⟨fun bytes i h => ?_, fun bytes i h => ?_, encode_decodeRequest⟩
  · obtain ⟨hwf, body, he, rfl⟩ := encode_of_decodeBody (decodeBody_of_decode h)
    exact ⟨hwf, by rw [he, List.append_nil]⟩
  · have he : encode i = .response bytes := encode_of_decodeResponse h
    exact ⟨wf_of_encode_response he, he⟩

/-- Settles O9, refusal by refusal. -/
theorem decoderRefusesWhatIsNeverSent : Obligations.DecoderRefusesWhatIsNeverSent := by
  refine ⟨fun opcode rest => decodeBody_unknownOpcode rest, rfl, fun opcode hop payload hlen => ?_, by decide,
    fun opcode hop ch lsb msb rest hhigh => ?_, fun h d rest => decodeFrame_badHeader d rest⟩
  · obtain ⟨make, hmake⟩ := decodeBody_b4 hop
    rw [hmake, decodeB4_missingByte make hlen]
  · obtain ⟨make, hmake⟩ := decodeBody_b4 hop
    rw [hmake, decodeB4_highBitSet make ch rest hhigh]

/-- Settles O11: past the header, the body decoder reads the command back. -/
theorem frameParserInvertsFrames : Obligations.FrameParserInvertsFrames := by
  intro d i body rest hwf he
  have hbody := decodeBody_of_encode hwf he rest
  exact ⟨decodeFrame_addressed hbody, decodeFrame_pointToPoint hbody⟩

/-- Settles O6: the header puts two bytes before the body, or none. -/
theorem headerAndFrameLengths : Obligations.HeaderAndFrameLengths :=
  ⟨fun d body => ⟨frame_addressed d body, frame_pointToPoint d body⟩,
    fun _ _ _ _ => ⟨rfl, rfl, rfl, rfl, rfl, rfl, rfl, rfl, rfl⟩, fun _ _ => ⟨rfl, rfl⟩, fun _ => ⟨rfl, rfl, rfl⟩⟩

end Sys2Proof.Machine
end

section
/-! PROOF. Every byte sent is part of a command frame: every step keeps the trace a succession of first parts of
frames, and the three invariants of the trace, the results and the ghost flag hold along every run. -/

namespace Sys2Proof.Machine

/-! ## Successions of first parts of frames -/

theorem frameParts_nil (mode : AddrMode) (d : Byte) : FrameParts mode d [] := ⟨[], rfl, by simp⟩

theorem FrameParts.append {mode : AddrMode} {d : Byte} {a b : List Byte} (ha : FrameParts mode d a)
    (hb : FrameParts mode d b) : FrameParts mode d (a ++ b) := by
  obtain ⟨ps, rfl, hps⟩ := ha
  obtain ⟨qs, rfl, hqs⟩ := hb
  exact ⟨ps ++ qs, List.flatten_append.symm, fun p hp => (List.mem_append.1 hp).elim (hps p) (hqs p)⟩

theorem IsCommandFrame.frameParts_of_prefix {mode : AddrMode} {d : Byte} {f p : List Byte}
    (hf : IsCommandFrame mode d f) (hp : p <+: f) : FrameParts mode d p :=
  ⟨[p], by simp, by simpa using ⟨f, hf, hp⟩⟩

/-! ## Every step keeps the trace so -/

theorem State.OnlyFramesSent.of_append {s t : State} {sent : List Byte} (hs : s.OnlyFramesSent)
    (hconf : SameConfiguration s t) (htrace : t.txTrace = s.txTrace ++ sent)
    (hsent : FrameParts s.addrMode s.devAddr sent) : t.OnlyFramesSent := by
  obtain ⟨hdev, hmode⟩ := hconf
  rw [State.OnlyFramesSent, hdev, hmode, htrace]
  exact FrameParts.append hs hsent

/-- The TX phase sends nothing, or a first part of the frame in flight, the whole of it or less. -/
theorem State.OnlyFramesSent.transmit {s : State} (hs : s.OnlyFramesSent) : (transmit s).OnlyFramesSent := by
  obtain ⟨sent, htrace, hsent⟩ := transmit_trace s
  refine hs.of_append (sameConfiguration_kept.transmits s) htrace ?_
  obtain rfl | ⟨op, -, hprefix, -⟩ := hsent
  · exact frameParts_nil _ _
  · exact (inFlight_isCommandFrame _ _ op).frameParts_of_prefix hprefix

theorem State.OnlyFramesSent.receive {s : State} (hs : s.OnlyFramesSent) : (receive s).OnlyFramesSent := by
  obtain ⟨-, -, -, -, htrace, -⟩ := receive_frame s
  exact hs.of_append (sameConfiguration_kept.receives s) (htrace.trans (List.append_nil _).symm) (frameParts_nil _ _)

theorem onlyFramesSent_kept : KeptByPhases fun s t => s.OnlyFramesSent → t.OnlyFramesSent where
  refl _ := id
  trans _ _ _ hst htu := htu ∘ hst
  endsAtOnce _ _ _ _ := id
  setsRange _ _ _ _ := id
  begins _ _ := id
  transmits _ hs := hs.transmit
  receives _ hs := hs.receive
  requests _ _ := id
  closes _ := id

/-- Settles O38: a reset empties the trace, and every other step appends only first parts of frames to it. -/
theorem stepKeepsOnlyFramesSent : Obligations.StepKeepsOnlyFramesSent :=
  fun _ _ => onlyFramesSent_kept.step_keeps fun _ _ _ => frameParts_nil _ _

/-! ## Every run -/

/-- The three invariants of what has been sent, how operations have ended and what the ghost flag says of it. -/
def State.MeetsInvariants (s : State) : Prop := s.OnlyFramesSent ∧ s.WholeUnlessFailed ∧ s.ShortReadDesyncs

theorem State.MeetsInvariants.step {s t : State} (hs : s.MeetsInvariants) (h : step s = .next t) :
    t.MeetsInvariants := by
  obtain ⟨honly, hwhole, hdesync⟩ := hs
  exact ⟨stepKeepsOnlyFramesSent s t honly h, stepKeepsWholeUnlessFailed s t hwhole h,
    stepKeepsShortReadDesyncs s t hdesync h⟩

/-- The environment writes none of the fields the invariants speak of: requests, the owner's action and the Transport
are all it can change. -/
theorem State.MeetsInvariants.env {s t : State} (hs : s.MeetsInvariants) (h : EnvMove s t) : t.MeetsInvariants := by
  cases h with
  | present r => exact hs
  | ask a _ => exact hs
  | arrive bytes => exact hs
  | answerWrite a => exact hs
  | answerRead a => exact hs

theorem Reachable.meetsInvariants {s : State} (h : Reachable s) : s.MeetsInvariants := by
  induction h with
  | construct args tr rs => exact constructedStatesMeetTheInvariants.1 args tr rs
  | step s t _ hstep ih => exact ih.step hstep
  | env s t _ hmove ih => exact ih.env hmove

/-- Settles O42: the invariants hold along the run, and a trace of whole frames is one that the parser reads. -/
theorem everyRunSendsOnlyFrames : Obligations.EveryRunSendsOnlyFrames := by
  intro s hs
  obtain ⟨honly, hwhole, hdesync⟩ := hs.meetsInvariants
  refine ⟨honly, hwhole, hdesync, fun hok => ?_⟩
  obtain ⟨cmds, hread, -⟩ := wholeFramesHaveOneReading _ _ _ (hwhole hok)
  exact ⟨cmds, hread⟩

end Sys2Proof.Machine
end

section
/-! PROOF. Wire commands and responses: a wire command whose frame is in flight sends it and goes on with its
operation, and what each of the two levels leaves unchanged. -/

namespace Sys2Proof.Machine

/-! ## The frame in flight is sent -/

/-- The state once the write in flight has put `body`'s frame on the wire, with the answers `ws` still to come. -/
def wroteState (body : List Byte) (ws : List WriteAnswer) (s : State) : State :=
  { s with
    txTrace := s.txTrace ++ frame s.addrMode s.devAddr body
    transport := { s.transport with writeAnswers := ws } }

/-- A wire command whose body is the one in flight sends its frame, and its operation goes on. -/
theorem exec_body_ok {i : Instr} {op : InFlight} {body : List Byte} {s : State} {ws : List WriteAnswer}
    (hc : s.transport.closed = false) (hw : s.transport.writeAnswers = .ok :: ws) (hp : s.phase = .tx op)
    (he : encode i = .body body) (hb : op.body = body) :
    exec i s = .next (afterWrite op (wroteState body ws s)) := by
  rw [exec_body s he, sendBody_inFlight hp hb, transmit_ok hp (writeAnswer_cons hc hw), hb]
  simp [sentState, wroteState, hw]

/-- One split, one `B4` body (R90). -/
theorem bodyB4_congr (opcode ch : Byte) {v w : U16} (h : split7 v = split7 w) :
    bodyB4 opcode ch v = bodyB4 opcode ch w := by
  simp [bodyB4, h]

/-- Settles O25: the frame in flight is the command's own, and what follows the write ends the operation. -/
theorem wireValueCommandsSend : Obligations.WireValueCommandsSend := by
  intro ch c v w s ws hch hsplit hc hw
  obtain rfl := channelByte_eq_iff.2 hch
  exact ⟨fun hp => exec_body_ok hc hw hp rfl (bodyB4_congr _ _ hsplit.symm),
    fun hp => exec_body_ok hc hw hp rfl (bodyB4_congr _ _ hsplit.symm),
    fun hp => exec_body_ok hc hw hp rfl (bodyB4_congr _ _ hsplit.symm)⟩

/-- Settles O26: the frame in flight is the command's own, and what follows the write is the read or the end. -/
theorem wireQueryAndScriptCommandsSend : Obligations.WireQueryAndScriptCommandsSend := by
  intro ch n c t s ws hch hc hw
  obtain rfl := channelByte_eq_iff.2 hch
  refine ⟨fun p hmem hp => ?_, fun hp => exec_body_ok hc hw hp rfl rfl, fun hp => exec_body_ok hc hw hp rfl rfl,
    fun hp => exec_body_ok hc hw hp rfl rfl⟩
  obtain rfl | rfl : p = _ ∨ p = _ := by simpa using hmem
  · exact exec_body_ok hc hw hp rfl rfl
  · exact exec_body_ok hc hw hp rfl rfl

/-! ## What wire commands and responses leave unchanged -/

/-- A wire command is nothing or the TX phase. -/
theorem exec_body_cases {i : Instr} {body : List Byte} {s t : State} (he : encode i = .body body)
    (h : exec i s = .next t) : t = s ∨ t = transmit s := by
  obtain rfl := Host.Outcome.next.inj ((exec_body s he).symm.trans h)
  exact (sendBody_cases body s).imp_right fun ⟨_, _, _, hsend⟩ => hsend

/-- A response is nothing or the RX phase that returns its bytes. -/
theorem exec_response_cases {i : Instr} {bytes : List Byte} {s t : State} (he : encode i = .response bytes)
    (h : exec i s = .next t) : t = s ∨ (s.arriving = some bytes ∧ t = receive s) := by
  obtain rfl := Host.Outcome.next.inj ((exec_response s he).symm.trans h)
  exact takeResponse_cases bytes s

/-- The read that returns bytes leaves the ghost flag alone. -/
theorem receive_rxSync_of_arriving {s : State} {bytes : List Byte} (h : s.arriving = some bytes) :
    (receive s).rxSync = s.rxSync := by
  obtain ⟨q, hp, hok, hn, -⟩ := arriving_eq_some.1 h
  rw [receive_ok hp hok hn]
  rfl

/-- SetTarget is the one wire command that names a register-file entry. -/
theorem writesEntry_eq_none_of_body {i : Instr} {body : List Byte} (he : encode i = .body body)
    (hi : ∀ ch v, i ≠ .wireSetTarget ch v) : writesEntry i = none := by
  cases i with
  | wireSetTarget ch v => exact absurd rfl (hi ch v)
  | setRange ch mn mx => cases he
  | setTarget ch v => cases he
  | _ => rfl

/-- An instruction that names no register-file entry leaves the register file as it is. -/
theorem exec_rf_of_writesEntry_none {i : Instr} {s t : State} (h : exec i s = .next t) (hi : writesEntry i = none) :
    t.rf = s.rf :=
  Vector.ext fun c hc => (onlyTwoOperationsWriteTheRegisterFile i s t ⟨c, hc⟩ h).1 (by simp [hi])

/-- SetTarget writes at most the target of the channel it names. -/
theorem exec_wireSetTarget_entry {ch : Byte} {v : U16} {s t : State} (h : exec (.wireSetTarget ch v) s = .next t)
    (c : Fin NCH) :
    (t.rf[c.val]).minLimit = (s.rf[c.val]).minLimit ∧ (t.rf[c.val]).maxLimit = (s.rf[c.val]).maxLimit ∧
    (c.val ≠ ch.toNat → t.rf[c.val] = s.rf[c.val]) := by
  obtain ⟨hother, hlimits, -⟩ := onlyTwoOperationsWriteTheRegisterFile _ s t c h
  obtain ⟨hmin, hmax⟩ := hlimits (by simp)
  exact ⟨hmin, hmax, fun hne => hother fun hw => hne (channelByte_eq_iff.1 (Option.some.inj hw).symm).symm⟩

/-- Settles O58, from the one phase that each level can carry on. -/
theorem wireAndResponseFrame : Obligations.WireAndResponseFrame := by
  refine ⟨fun i body s t he h => ?_, fun i bytes s t he h => ?_⟩
  · have hrf : (∀ ch v, i ≠ .wireSetTarget ch v) → t.rf = s.rf := fun hi =>
      exec_rf_of_writesEntry_none h (writesEntry_eq_none_of_body he hi)
    have hentry := fun ch v (hi : i = .wireSetTarget ch v) => exec_wireSetTarget_entry (hi ▸ h)
    obtain rfl | rfl := exec_body_cases he h
    · exact ⟨rfl, rfl, rfl, rfl, rfl, rfl, rfl, rfl, hrf, hentry⟩
    · obtain ⟨hdev, hmode, hreq, howner, hsync, hrx, hreads, hclosed⟩ := transmit_frame s
      exact ⟨hdev, hmode, hreq, howner, hsync, hrx, hreads, hclosed, hrf, hentry⟩
  · obtain rfl | ⟨ha, rfl⟩ := exec_response_cases he h
    · exact ⟨rfl, rfl, rfl, rfl, rfl, rfl, rfl, rfl, rfl⟩
    · obtain ⟨hdev, hmode, hreq, howner, htrace, hrf, hwrites, hclosed⟩ := receive_frame s
      exact ⟨hdev, hmode, hreq, howner, htrace, hwrites, hclosed, receive_rxSync_of_arriving ha, hrf⟩

end Sys2Proof.Machine
end

section
/-! PROOF. Responses: a response that arrives for the read in flight is taken from the stream and ends its query. -/

namespace Sys2Proof.Machine

/-! ## The read that returns a response -/

section
variable {i : Instr} {s : State} {q : Query} {bytes rx : List Byte} {ws : List WriteAnswer} {rs : List ReadAnswer}

/-- A read answered OK takes its response from the front of the stream and ends the query in what the bytes say. -/
theorem receive_okAnswer (hn : bytes.length = q.size) (hp : s.phase = .rx q)
    (ht : s.transport = { rxStream := bytes ++ rx, writeAnswers := ws, readAnswers := .ok :: rs, closed := false }) :
    receive s = { s with
      phase := .idle
      transport := { rxStream := rx, writeAnswers := ws, readAnswers := rs, closed := false }
      results := s.results ++ [q.result bytes] } := by
  rw [receive_ok hp (readAnswer_cons (by rw [ht]) (by rw [ht])) (by simp [ht, hn])]
  simp [finish, takenState, ht, ← hn]

/-- A response at the front of the stream, of the size that the read in flight asks for, is the one that arrives. -/
theorem arriving_front (hn : bytes.length = q.size) (hp : s.phase = .rx q)
    (ht : s.transport = { rxStream := bytes ++ rx, writeAnswers := ws, readAnswers := .ok :: rs, closed := false }) :
    s.arriving = some bytes :=
  arriving_eq_some.2 ⟨q, hp, readAnswer_cons (by rw [ht]) (by rw [ht]), by simp [ht, hn], by simp [ht, ← hn]⟩

/-- A response that arrives is the RX phase. -/
theorem exec_response_arriving (he : encode i = .response bytes) (ha : s.arriving = some bytes) :
    exec i s = .next (receive s) := by
  rw [exec_response s he, takeResponse, if_pos ha]

/-- A response at the front of the stream ends the query whose read is in flight. -/
theorem exec_response_ok (he : encode i = .response bytes) (hn : bytes.length = q.size) (hp : s.phase = .rx q)
    (ht : s.transport = { rxStream := bytes ++ rx, writeAnswers := ws, readAnswers := .ok :: rs, closed := false }) :
    exec i s = .next { s with
      phase := .idle
      transport := { rxStream := rx, writeAnswers := ws, readAnswers := rs, closed := false }
      results := s.results ++ [q.result bytes] } := by
  rw [exec_response_arriving he (arriving_front hn hp ht), receive_okAnswer hn hp ht]

end

/-! ## The results of the queries, in numbers -/

/-- `isMoving` asks whether the position read differs from the target it holds (R160). -/
theorem isMoving_result (t : U16) (b0 b1 : Byte) :
    (Query.isMoving t).result [b0, b1] = .bool (decide (256 * b1.toNat + b0.toNat ≠ t.toNat)) := by
  rw [← decPosition_toNat]
  simp [Query.result, bne, beq_eq_decide, BitVec.toNat_inj]

/-- `getMovingState` asks whether the byte read is nonzero (R141). -/
theorem movingState_result (b0 : Byte) : Query.movingState.result [b0] = .bool (decide (b0.toNat ≠ 0)) := by
  simp [Query.result, decMovingState, bne, beq_eq_decide, ← BitVec.toNat_inj]

/-- Settles O27: the response is the one that arrives, so it ends its query, in what its bytes are as a number. -/
theorem responsesEndTheirQueries : Obligations.ResponsesEndTheirQueries := by
  intro b0 b1 t s rx ws rs
  refine ⟨fun ht => ⟨fun hp => ?_, fun hp => ?_⟩, fun ht hp => ?_⟩
  · exact ⟨decPosition b0 b1, decPosition_toNat b0 b1, exec_response_ok (bytes := [b0, b1]) rfl rfl hp ht⟩
  · rw [← isMoving_result]
    exact exec_response_ok rfl rfl hp ht
  · rw [← movingState_result]
    exact exec_response_ok rfl rfl hp ht

end Sys2Proof.Machine
end

section
/-! PROOF. The soft limits as two bounds, each of which applies unless it is 0: outside the inverted range the clamp is
one after the other, in either order. -/

namespace Sys2Proof.Machine

/-! ## One bound -/

/-- `v` raised to a lower bound; 0 is no bound (R25). -/
def atLeast (lo v : U16) : U16 := if lo ≠ 0 ∧ v.toNat < lo.toNat then lo else v

/-- `v` lowered to an upper bound; 0 is no bound (R25). -/
def atMost (hi v : U16) : U16 := if hi ≠ 0 ∧ hi.toNat < v.toNat then hi else v

section
variable {lo hi : U16} (v : U16)

theorem atLeast_zero : atLeast 0 v = v := if_neg fun h => h.1 rfl

theorem atMost_zero : atMost 0 v = v := if_neg fun h => h.1 rfl

theorem atLeast_toNat (h : lo ≠ 0) : (atLeast lo v).toNat = max v.toNat lo.toNat := by
  by_cases hlt : v.toNat < lo.toNat
  · rw [atLeast, if_pos ⟨h, hlt⟩, max_eq_right hlt.le]
  · rw [atLeast, if_neg fun h' => hlt h'.2, max_eq_left (Nat.not_lt.1 hlt)]

theorem atMost_toNat (h : hi ≠ 0) : (atMost hi v).toNat = min v.toNat hi.toNat := by
  by_cases hlt : hi.toNat < v.toNat
  · rw [atMost, if_pos ⟨h, hlt⟩, min_eq_right hlt.le]
  · rw [atMost, if_neg fun h' => hlt h'.2, min_eq_left (Nat.not_lt.1 hlt)]

theorem atLeast_cases (lo : U16) : atLeast lo v = v ∨ atLeast lo v = lo := by
  unfold atLeast
  split <;> simp

theorem atMost_cases (hi : U16) : atMost hi v = v ∨ atMost hi v = hi := by
  unfold atMost
  split <;> simp

theorem atLeast_idem (lo : U16) : atLeast lo (atLeast lo v) = atLeast lo v := by
  by_cases hlo : lo = 0
  · rw [hlo, atLeast_zero]
  · refine BitVec.eq_of_toNat_eq ?_
    rw [atLeast_toNat _ hlo, atLeast_toNat _ hlo, max_assoc, max_self]

theorem atMost_idem (hi : U16) : atMost hi (atMost hi v) = atMost hi v := by
  by_cases hhi : hi = 0
  · rw [hhi, atMost_zero]
  · refine BitVec.eq_of_toNat_eq ?_
    rw [atMost_toNat _ hhi, atMost_toNat _ hhi, min_assoc, min_self]

/-! ## Both bounds -/

/-- Bounds that are not inverted may be applied in either order. -/
theorem atMost_atLeast_comm (h : ¬ (lo ≠ 0 ∧ hi ≠ 0 ∧ hi.toNat < lo.toNat)) :
    atMost hi (atLeast lo v) = atLeast lo (atMost hi v) := by
  by_cases hlo : lo = 0
  · rw [hlo, atLeast_zero, atLeast_zero]
  by_cases hhi : hi = 0
  · rw [hhi, atMost_zero, atMost_zero]
  have hle : lo.toNat ≤ hi.toNat := Nat.not_lt.1 fun hlt => h ⟨hlo, hhi, hlt⟩
  refine BitVec.eq_of_toNat_eq ?_
  rw [atMost_toNat _ hhi, atLeast_toNat _ hlo, atLeast_toNat _ hlo, atMost_toNat _ hhi]
  omega

/-- Outside the inverted range the clamp is the lower bound, then the upper one. -/
theorem clamp_eq_atMost_atLeast (h : ¬ (lo ≠ 0 ∧ hi ≠ 0 ∧ hi.toNat < lo.toNat)) :
    clamp lo hi v = atMost hi (atLeast lo v) :=
  if_neg h

/-- On an inverted range the clamp is the open function (R153). -/
theorem clamp_inverted (hlo : lo ≠ 0) (hhi : hi ≠ 0) (h : hi.toNat < lo.toNat) :
    clamp lo hi v = Config.clampInverted lo hi v :=
  if_pos ⟨hlo, hhi, h⟩

/-- Outside the inverted range clamping again changes nothing: the bounds commute and each is idempotent. -/
theorem clamp_idem (h : ¬ (lo ≠ 0 ∧ hi ≠ 0 ∧ hi.toNat < lo.toNat)) :
    clamp lo hi (clamp lo hi v) = clamp lo hi v := by
  simp only [clamp_eq_atMost_atLeast _ h]
  calc atMost hi (atLeast lo (atMost hi (atLeast lo v)))
      = atMost hi (atMost hi (atLeast lo (atLeast lo v))) := by rw [atMost_atLeast_comm (atLeast lo v) h]
    _ = atMost hi (atLeast lo v) := by rw [atMost_idem, atLeast_idem]

end

/-- Settles O49, from the two bounds taken apart. -/
theorem clampIsTheSoftLimit : Obligations.ClampIsTheSoftLimit := by
  intro lo hi v
  refine ⟨fun hlo hhi => ?_, fun hlo hhi => ?_, fun hlo hhi => ?_, fun hlo hhi hle => ?_, fun h => ⟨?_, clamp_idem v h⟩,
    fun h => ?_, clamp_inverted v⟩
  · rw [clamp_eq_atMost_atLeast v (by simp [hlo]), hlo, hhi, atLeast_zero, atMost_zero]
  · rw [clamp_eq_atMost_atLeast v (by simp [hhi]), hhi, atMost_zero, atLeast_toNat v hlo]
  · rw [clamp_eq_atMost_atLeast v (by simp [hlo]), hlo, atLeast_zero, atMost_toNat v hhi]
  · rw [clamp_eq_atMost_atLeast v (by omega), atMost_toNat _ hhi, atLeast_toNat v hlo]
    omega
  · rw [clamp_eq_atMost_atLeast v h]
    obtain hv | hhi := atMost_cases (atLeast lo v) hi
    · rw [hv]
      exact (atLeast_cases v lo).imp_right .inl
    · exact .inr (.inr hhi)
  · exact (clamp_eq_atMost_atLeast v h).trans (atMost_atLeast_comm v h)

end Sys2Proof.Machine
end

section
/-! PROOF. What each host operation does in IDLE when the Transport answers: it ends at once, or it sends its frame and
ends, or it sends its frame, reads its response and ends. -/

namespace Sys2Proof.Machine

/-! ## Operations that end at once -/

/-- An operation that ends in IDLE changes the result port alone. -/
theorem finish_idle {s : State} (hp : s.phase = .idle) (r : Result) :
    finish r s = { s with results := s.results ++ [r] } := by
  rw [finish, ← hp]

/-- `CheckChannel` ends an operation before it does anything else (R151, R182). -/
theorem exec_invalidChannel {i : Instr} {ch : Byte} {s : State} (hi : channelOperand i = some ch)
    (hp : s.phase = .idle) (h : 23 < ch.toNat) :
    exec i s = .next { s with results := s.results ++ [.error (.invalidChannel ch)] } := by
  rw [← finish_idle hp]
  have rejected : ∀ f : Fin NCH → State → State,
      accept s (withChannel ch f) = finish (.error (.invalidChannel ch)) s :=
    fun _ => (accept_idle hp).trans (withChannel_invalid h)
  cases i with
  | setRange c mn mx => cases hi; exact congrArg Host.Outcome.next (rejected _)
  | setTarget c v => cases hi; exact congrArg Host.Outcome.next (rejected _)
  | setSpeed c v => cases hi; exact congrArg Host.Outcome.next (rejected _)
  | setAccel c v => cases hi; exact congrArg Host.Outcome.next (rejected _)
  | getPosition c => cases hi; exact congrArg Host.Outcome.next (rejected _)
  | isMoving c => cases hi; exact congrArg Host.Outcome.next (rejected _)
  | _ => cases hi

/-- An accepted reserved code is answered with `IllegalOperation` and has no other effect (R166). -/
theorem accept_illegal {s : State} (hp : s.phase = .idle) (code : OpCode) :
    accept s (raise (.illegalOperation code)) =
      { s with results := s.results ++ [.error (.illegalOperation code)] } := by
  rw [accept_idle hp, raise_eq, finish_idle hp]

/-- `isMoving` on a channel never commanded answers false without touching the Transport (C6). -/
theorem exec_isMoving_uncommanded {c : Fin NCH} {s : State} (hp : s.phase = .idle) (h : (s.entry c).target = 0) :
    exec (.isMoving (channelByte c)) s = .next { s with results := s.results ++ [.bool false] } := by
  rw [← finish_idle hp]
  refine congrArg Host.Outcome.next ((accept_idle hp).trans ((withChannel_valid (channelByte_toNat c)).trans ?_))
  simp only [h, if_true]

/-! ## Operations that send a frame -/

section
variable {i : Instr} {s : State} {op : InFlight} {ws : List WriteAnswer}

/-- A pass-through command whose write is answered OK sends its frame and ends OK. -/
theorem exec_passThrough_ok (hp : s.phase = .idle) (hst : starts i s = some op)
    (hends : ∀ u, afterWrite op u = finish .ok u) (hc : s.transport.closed = false)
    (hw : s.transport.writeAnswers = .ok :: ws) :
    exec i s = .next { s with
      txTrace := s.txTrace ++ frame s.addrMode s.devAddr op.body
      transport := { s.transport with writeAnswers := ws }
      results := s.results ++ [.ok] } := by
  rw [exec_of_starts hp hst, perform_ok hc hw, hends, receive_other (by simp)]
  simp [finish, hp]

/-- A query whose write and read are answered OK sends its frame, takes its response and ends in what that says. -/
theorem exec_query_ok {q : Query} {bytes rx : List Byte} {rs : List ReadAnswer} (hp : s.phase = .idle)
    (hst : starts i s = some op) (hq : op.query? = some q) (hn : bytes.length = q.size)
    (ht : s.transport =
      { rxStream := bytes ++ rx, writeAnswers := .ok :: ws, readAnswers := .ok :: rs, closed := false }) :
    exec i s = .next { s with
      txTrace := s.txTrace ++ frame s.addrMode s.devAddr op.body
      transport := { rxStream := rx, writeAnswers := ws, readAnswers := rs, closed := false }
      results := s.results ++ [q.result bytes] } := by
  rw [exec_query hp hst hq ht, receive_okAnswer hn rfl rfl]
  simp [askedState, hp]

end

/-! ## What the operations start -/

/-- Every channel operand up to 23 is a checked channel's byte. -/
theorem exists_channelByte {ch : Byte} (h : ch.toNat < 24) : ∃ c : Fin NCH, channelByte c = ch :=
  ⟨⟨ch.toNat, h⟩, channelByte_eq_iff.2 rfl⟩

theorem starts_setTarget (c : Fin NCH) (v : U16) (s : State) :
    starts (.setTarget (channelByte c) v) s = some (.setTarget c (s.clampedTarget c v)) := by
  simp [starts]

theorem starts_getPosition (c : Fin NCH) (s : State) :
    starts (.getPosition (channelByte c)) s = some (.getPosition c) := by
  simp [starts]

theorem starts_isMoving {c : Fin NCH} {s : State} (h : (s.entry c).target ≠ 0) :
    starts (.isMoving (channelByte c)) s = some (.isMoving c (s.entry c).target) := by
  simpa [starts] using h

/-- Each pass-through command starts an operation with its own body that ends with its write. -/
theorem starts_passThrough (c : Fin NCH) (n : Byte) (v : U16) (s : State) :
    ∀ p ∈ [(Instr.setSpeed (channelByte c) v, encSetSpeed (channelByte c) v),
      (.setAccel (channelByte c) v, encSetAcceleration (channelByte c) v),
      (.runScriptSubroutine n, encRunScriptSubroutine n), (.stopScript, encStopScript)],
      ∃ op, starts p.1 s = some op ∧ op.body = p.2 ∧ ∀ u, afterWrite op u = finish .ok u := by
  simp only [List.forall_mem_cons, List.not_mem_nil, false_imp_iff, implies_true, and_true]
  exact ⟨⟨.setSpeed c v, by simp [starts], rfl, fun _ => rfl⟩, ⟨.setAccel c v, by simp [starts], rfl, fun _ => rfl⟩,
    ⟨.runScriptSubroutine n, rfl, rfl, fun _ => rfl⟩, ⟨.stopScript, rfl, rfl, fun _ => rfl⟩⟩

/-! ## The obligations -/

/-- Settles O14: past the channel check, `setRange` writes the limits and ends. -/
theorem setRangeStoresBothLimits : Obligations.SetRangeStoresBothLimits := by
  refine fun ch mn mx s hp => ⟨fun c hc => congrArg Host.Outcome.next ?_, exec_invalidChannel rfl hp⟩
  rw [accept_idle hp, withChannel_valid hc, finish_idle (s := s.writeLimits c mn mx) hp]
  rfl

/-- Settles O15: the operation in flight holds the clamped target, which the write sends and its success stores. -/
theorem setTargetClampsSendsAndStores : Obligations.SetTargetClampsSendsAndStores := by
  refine fun ch v s ws hp hc =>
    ⟨fun c hch hw => ?_, fun c n hch hw => ?_, exec_invalidChannel rfl hp⟩ <;> obtain rfl := channelByte_eq_iff.2 hch
  · rw [exec_of_starts hp (starts_setTarget c v s), perform_ok hc hw, receive_other (by simp [afterWrite])]
    simp [afterWrite, finish, State.writeTarget, State.entry, State.clampedTarget, InFlight.body, hp]
  · exact (failedWriteEndsTheOperation _ s _ n ws hc hw).1 hp (starts_setTarget c v s)

/-- Settles O16: each of the four starts an operation that its write ends, whether OK or not. -/
theorem passThroughCommandsSend : Obligations.PassThroughCommandsSend := by
  refine fun ch n v s ws hp hc => ⟨fun hch hw p hmem => ?_, fun hch k hw p hmem => ?_, fun hgt i hmem => ?_⟩
  · obtain ⟨c, rfl⟩ := exists_channelByte hch
    obtain ⟨op, hst, hbody, hends⟩ := starts_passThrough c n v s p hmem
    rw [← hbody]
    exact exec_passThrough_ok hp hst hends hc hw
  · obtain ⟨c, rfl⟩ := exists_channelByte hch
    obtain ⟨op, hst, hbody, -⟩ := starts_passThrough c n v s p hmem
    rw [← hbody]
    exact (failedWriteEndsTheOperation _ s op k ws hc hw).1 hp hst
  · obtain rfl | rfl : i = .setSpeed ch v ∨ i = .setAccel ch v := by simpa using hmem
    · exact exec_invalidChannel rfl hp hgt
    · exact exec_invalidChannel rfl hp hgt

/-- Settles O17: the two bytes read are the position, low byte first. -/
theorem getPositionReturnsTheBytesRead : Obligations.GetPositionReturnsTheBytesRead := by
  intro ch b0 b1 s rx ws rs hp hch ht
  obtain ⟨c, rfl⟩ := exists_channelByte hch
  exact ⟨decPosition b0 b1, decPosition_toNat b0 b1,
    exec_query_ok (bytes := [b0, b1]) hp (starts_getPosition c s) rfl rfl ht⟩

/-- Settles O18: a stored target of 0 ends the operation at once, and any other is what the position is compared
with. -/
theorem isMovingComparesWithTheStoredTarget : Obligations.IsMovingComparesWithTheStoredTarget := by
  intro ch b0 b1 s c rx ws rs hp hch
  obtain rfl := channelByte_eq_iff.2 hch
  refine ⟨exec_isMoving_uncommanded hp, fun h0 ht => ?_⟩
  rw [← isMoving_result]
  exact exec_query_ok hp (starts_isMoving h0) rfl rfl ht

/-- Settles O19: the byte read is the answer. -/
theorem getMovingStateReturnsWhetherNonzero : Obligations.GetMovingStateReturnsWhetherNonzero := by
  intro b0 s rx ws rs hp ht
  rw [← movingState_result]
  exact exec_query_ok (op := .getMovingState) (bytes := [b0]) hp rfl rfl rfl ht

/-- Settles O20: each reserved instruction raises `IllegalOperation` with its own code, and the decoder finds it by
that code. -/
theorem reservedCodesAreIllegal : Obligations.ReservedCodesAreIllegal := by
  refine ⟨fun s hp => ?_, fun r => ?_⟩ <;>
    simp only [List.forall_mem_cons, List.not_mem_nil, false_imp_iff, implies_true, and_true]
  · have illegal := fun code => congrArg (Host.Outcome.next (φ := Fault) (ρ := Refusal)) (accept_illegal hp code)
    exact ⟨illegal 0x9, illegal 0xA, illegal 0xB, illegal 0xC, illegal 0xD, illegal 0xE, illegal 0xF⟩
  · refine ⟨?_, ?_, ?_, ?_, ?_, ?_, ?_⟩ <;> exact fun hop => by simp [decodeRequest, hop]

end Sys2Proof.Machine
end

section
/-! PROOF. What the host operations leave unchanged, in every phase and whatever the Transport answers: an operation
that sends no frame touches no stream, a command reads no response, and a query takes bytes from the front alone. -/

namespace Sys2Proof.Machine

/-! ## Every instruction -/

/-- An instruction that names one register-file entry leaves the others as they are. -/
theorem exec_entry_other {i : Instr} {ch : Byte} {s t : State} (h : exec i s = .next t)
    (hi : writesEntry i = some ch) {c : Fin NCH} (hc : c.val ≠ ch.toNat) : t.rf[c.val] = s.rf[c.val] := by
  refine (onlyTwoOperationsWriteTheRegisterFile i s t c h).1 fun hw => hc ?_
  exact (channelByte_eq_iff.1 (Option.some.inj (hw.symm.trans hi))).symm

/-- The host's and the owner's side of a change that reads at most from the front of the receive stream. -/
def KeepsEnvironment (s t : State) : Prop :=
  t.requests = s.requests ∧ t.owner = s.owner ∧ t.transport.closed = s.transport.closed ∧
  t.transport.rxStream <:+ s.transport.rxStream

namespace KeepsEnvironment

theorem refl (s : State) : KeepsEnvironment s s := ⟨rfl, rfl, rfl, List.suffix_rfl⟩

theorem trans {s t u : State} (hst : KeepsEnvironment s t) (htu : KeepsEnvironment t u) : KeepsEnvironment s u := by
  obtain ⟨hreq, howner, hclosed, hrx⟩ := hst
  obtain ⟨hreq', howner', hclosed', hrx'⟩ := htu
  exact ⟨hreq'.trans hreq, howner'.trans howner, hclosed'.trans hclosed, hrx'.trans hrx⟩

theorem transmit (s : State) : KeepsEnvironment s (transmit s) :=
  have ⟨_, _, hreq, howner, _, hrx, _, hclosed⟩ := transmit_frame s
  ⟨hreq, howner, hclosed, hrx ▸ List.suffix_rfl⟩

theorem receive (s : State) : KeepsEnvironment s (receive s) := by
  obtain h | ⟨q, -, -, -, h⟩ | ⟨q, k, j, -, -, h⟩ | ⟨q, j, -, -, h⟩ := receive_cases s <;> rw [h]
  · exact refl s
  all_goals exact ⟨rfl, rfl, rfl, List.drop_suffix _ _⟩

end KeepsEnvironment

/-- No instruction touches the request port, the owner's action or the closed flag, or adds to the receive stream. -/
theorem exec_keepsEnvironment {i : Instr} {s t : State} (h : exec i s = .next t) : KeepsEnvironment s t := by
  cases exec_does h with
  | nothing => exact .refl s
  | endsAtOnce r => exact .refl s
  | setsRange ch c mn mx => exact .refl s
  | performs op => exact (KeepsEnvironment.transmit (begunState op s)).trans (.receive _)
  | transmits => exact .transmit s
  | receives => exact .receive s

/-! ## Operations that send no frame -/

/-- A request that sends no frame changes at most the register file and the results. -/
theorem exec_of_starts_none_frame {i : Instr} {r : Request} {s t : State} (he : encode i = .request r)
    (hst : starts i s = none) (h : exec i s = .next t) :
    ∃ rf results, t = { s with rf := rf, results := results } := by
  cases exec_does h with
  | nothing => exact ⟨s.rf, s.results, rfl⟩
  | endsAtOnce res hp => exact ⟨s.rf, _, finish_idle hp res⟩
  | setsRange ch c mn mx hp => exact ⟨_, _, finish_idle (s := s.writeLimits c mn mx) hp .ok⟩
  | performs op hp hop => cases hst.symm.trans hop
  | transmits op hp hbody => cases he.symm.trans hbody
  | receives bytes ha hbytes => cases he.symm.trans hbytes

/-- The reserved codes are requests that send no frame and name no register-file entry. -/
theorem reserved_sends_nothing (s : State) :
    ∀ i ∈ [Instr.reserved9, .reservedA, .reservedB, .reservedC, .reservedD, .reservedE, .reservedF],
      (∃ r, encode i = .request r) ∧ starts i s = none ∧ writesEntry i = none := by
  simp only [List.forall_mem_cons, List.not_mem_nil, false_imp_iff, implies_true, and_true]
  refine ⟨?_, ?_, ?_, ?_, ?_, ?_, ?_⟩ <;> exact ⟨⟨_, rfl⟩, rfl, rfl⟩

/-- Settles O55, from the two fields that `setRange` may write and the one that a reserved code may. -/
theorem setRangeAndReservedFrame : Obligations.SetRangeAndReservedFrame := by
  refine ⟨fun ch mn mx s t h => ?_, fun s t i hmem h => ?_⟩
  · have htarget : ∀ c : Fin NCH, (t.rf[c.val]).target = (s.rf[c.val]).target := fun c =>
      have ⟨_, _, htarget⟩ := onlyTwoOperationsWriteTheRegisterFile _ s t c h
      htarget ch mn mx rfl
    have hother : ∀ c : Fin NCH, c.val ≠ ch.toNat → t.rf[c.val] = s.rf[c.val] := fun c => exec_entry_other h rfl
    obtain ⟨rf, results, rfl⟩ := exec_of_starts_none_frame rfl rfl h
    exact ⟨rfl, rfl, rfl, rfl, rfl, rfl, rfl, rfl, htarget, hother⟩
  · obtain ⟨⟨r, he⟩, hst, hw⟩ := reserved_sends_nothing s i hmem
    have hrf := exec_rf_of_writesEntry_none h hw
    obtain ⟨rf, results, rfl⟩ := exec_of_starts_none_frame he hst h
    exact ⟨rfl, rfl, rfl, rfl, rfl, rfl, rfl, rfl, hrf⟩

/-! ## Commands -/

/-- An operation that reads no response is its TX phase. -/
theorem perform_of_no_query {op : InFlight} (hq : op.query? = none) (s : State) :
    perform op s = transmit (begunState op s) := by
  refine receive_other fun q hrx => ?_
  obtain ⟨htx, -⟩ | ⟨q', hq', -⟩ | ⟨hidle, -⟩ := transmit_phase (begunState_phase op s)
  · cases hrx.symm.trans htx
  · cases hq.symm.trans hq'
  · cases hrx.symm.trans hidle

/-- What starts as a command on every checked channel starts as one on a channel operand. -/
theorem query?_eq_none_of_map {o : Option (Fin NCH)} {mk : Fin NCH → InFlight} {op : InFlight}
    (hmk : ∀ c, (mk c).query? = none) (h : o.map mk = some op) : op.query? = none := by
  obtain ⟨c, -, rfl⟩ := Option.map_eq_some_iff.1 h
  exact hmk c

/-- The pass-through commands are requests that name no register-file entry and start no query. -/
theorem passThrough_command (ch n : Byte) (v : U16) (s : State) :
    ∀ i ∈ [Instr.setSpeed ch v, .setAccel ch v, .runScriptSubroutine n, .stopScript],
      (∃ r, encode i = .request r) ∧ writesEntry i = none ∧ ∀ op, starts i s = some op → op.query? = none := by
  simp only [List.forall_mem_cons, List.not_mem_nil, false_imp_iff, implies_true, and_true]
  exact ⟨⟨⟨_, rfl⟩, rfl, fun _ => query?_eq_none_of_map fun _ => rfl⟩,
    ⟨⟨_, rfl⟩, rfl, fun _ => query?_eq_none_of_map fun _ => rfl⟩,
    ⟨⟨_, rfl⟩, rfl, fun _ hst => Option.some.inj hst ▸ rfl⟩, ⟨⟨_, rfl⟩, rfl, fun _ hst => Option.some.inj hst ▸ rfl⟩⟩

/-- A request that starts no query leaves the receive side alone. -/
theorem exec_command_receiveSide {i : Instr} {r : Request} {s t : State} (he : encode i = .request r)
    (hq : ∀ op, starts i s = some op → op.query? = none) (h : exec i s = .next t) :
    t.rxSync = s.rxSync ∧ t.transport.rxStream = s.transport.rxStream ∧
    t.transport.readAnswers = s.transport.readAnswers := by
  cases exec_does h with
  | nothing => exact ⟨rfl, rfl, rfl⟩
  | endsAtOnce res => exact ⟨rfl, rfl, rfl⟩
  | setsRange ch c mn mx => exact ⟨rfl, rfl, rfl⟩
  | performs op hp hst =>
    rw [perform_of_no_query (hq op hst)]
    obtain ⟨-, -, -, -, hsync, hrx, hreads, -⟩ := transmit_frame (begunState op s)
    exact ⟨hsync, hrx, hreads⟩
  | transmits op hp hbody => cases he.symm.trans hbody
  | receives bytes ha hbytes => cases he.symm.trans hbytes

/-- Settles O56: `setTarget` starts no query and names its own channel's entry. -/
theorem setTargetFrame : Obligations.SetTargetFrame := by
  intro ch v s t h
  have hq : ∀ op, starts (.setTarget ch v) s = some op → op.query? = none :=
    fun _ => query?_eq_none_of_map fun _ => rfl
  obtain ⟨hdev, hmode⟩ := sameConfiguration_kept.exec h
  obtain ⟨hreq, howner, hclosed, -⟩ := exec_keepsEnvironment h
  obtain ⟨hsync, hrx, hreads⟩ := exec_command_receiveSide rfl hq h
  have hlimits : ∀ c : Fin NCH, (t.rf[c.val]).minLimit = (s.rf[c.val]).minLimit ∧
      (t.rf[c.val]).maxLimit = (s.rf[c.val]).maxLimit := fun c =>
    have ⟨_, hlimits, _⟩ := onlyTwoOperationsWriteTheRegisterFile _ s t c h
    hlimits (by simp)
  exact ⟨hdev, hmode, hreq, howner, hrx, hreads, hclosed, hsync, hlimits, fun c => exec_entry_other h rfl⟩

/-- Settles O57: neither kind names a register-file entry, and the pass-through commands start no query. -/
theorem passThroughAndQueryFrame : Obligations.PassThroughAndQueryFrame := by
  refine ⟨fun ch n v s t i hmem h => ?_, fun ch s t i hmem h => ?_⟩
  · obtain ⟨⟨r, he⟩, hw, hq⟩ := passThrough_command ch n v s i hmem
    obtain ⟨hdev, hmode⟩ := sameConfiguration_kept.exec h
    obtain ⟨hreq, howner, hclosed, -⟩ := exec_keepsEnvironment h
    obtain ⟨hsync, hrx, hreads⟩ := exec_command_receiveSide he hq h
    exact ⟨hdev, hmode, hreq, howner, exec_rf_of_writesEntry_none h hw, hsync, hrx, hreads, hclosed⟩
  · have hw : writesEntry i = none := by
      obtain rfl | rfl | rfl : i = .getPosition ch ∨ i = .isMoving ch ∨ i = .getMovingState := by simpa using hmem
      all_goals rfl
    obtain ⟨hdev, hmode⟩ := sameConfiguration_kept.exec h
    obtain ⟨hreq, howner, hclosed, hrx⟩ := exec_keepsEnvironment h
    exact ⟨hdev, hmode, hreq, howner, exec_rf_of_writesEntry_none h hw, hclosed, hrx⟩

end Sys2Proof.Machine
end

section
/-! PROOF. Errors as results: no instruction and no step stops the machine over one, the channel check answers with one
before anything else, and an operation that writes the register file has ended OK. -/

namespace Sys2Proof.Machine

/-! ## What can stop the machine -/

/-- Every instruction answers a next state: no arm faults or refuses (R190). -/
theorem exec_total (i : Instr) (s : State) : ∃ t, exec i s = .next t :=
  have ⟨f, _, hexec⟩ := exec_blind i
  ⟨f s, hexec s⟩

/-- Settles O31: an owner's action is taken unless it is a reset in flight, and every packet taken up decodes. -/
theorem onlyResetInFlightStopsTheMachine : Obligations.OnlyResetInFlightStopsTheMachine := by
  refine ⟨exec_total, fun s => ?_⟩
  cases ho : s.owner with
  | some a =>
    cases a with
    | close => exact .inl ⟨_, step_close ho⟩
    | reset args =>
      by_cases hp : s.phase = .idle
      · exact .inl ⟨_, step_reset ho hp⟩
      · exact .inr ⟨step_reset_busy ho hp, hp, args, rfl⟩
  | none =>
    refine .inl ?_
    cases hn : s.nextPacket with
    | none => exact ⟨_, step_of_no_packet ho hn⟩
    | some p =>
      obtain ⟨i, hi⟩ := nextPacket_decodes hn
      rw [step_of_nextPacket ho hn hi]
      exact exec_total i s.consume

/-! ## The channel check -/

/-- Settles O13: the check is the first line of each of the six. -/
theorem channelAbove23IsRejected : Obligations.ChannelAbove23IsRejected := by
  refine fun ch s hp hgt a b i hmem => exec_invalidChannel ?_ hp hgt
  fin_cases hmem <;> rfl

/-! ## The register file and the results -/

/-- From `s` to `t` results are only added, and an OK is among the new ones if the register file has changed. -/
def WritesOnlyWithOk (s t : State) : Prop :=
  ∃ new, t.results = s.results ++ new ∧ (t.rf = s.rf ∨ .ok ∈ new)

theorem WritesOnlyWithOk.of_unchanged {s t : State} (hres : t.results = s.results) (hrf : t.rf = s.rf) :
    WritesOnlyWithOk s t :=
  ⟨[], by rw [hres, List.append_nil], .inl hrf⟩

theorem WritesOnlyWithOk.trans {s t u : State} (hst : WritesOnlyWithOk s t) (htu : WritesOnlyWithOk t u) :
    WritesOnlyWithOk s u := by
  obtain ⟨new, hres, hst⟩ := hst
  obtain ⟨new', hres', htu⟩ := htu
  refine ⟨new ++ new', by rw [hres', hres, List.append_assoc], ?_⟩
  obtain hrf | hok := hst
  · obtain hrf' | hok' := htu
    · exact .inl (hrf'.trans hrf)
    · exact .inr (List.mem_append_right _ hok')
  · exact .inr (List.mem_append_left _ hok)

/-- The TX phase stores a target only once the write is answered OK, and then ends OK (R152, R191). -/
theorem transmit_writesOnlyWithOk (s : State) : WritesOnlyWithOk s (transmit s) := by
  obtain h | ⟨op, -, -, h⟩ | ⟨op, n, -, -, h⟩ := transmit_cases s <;> rw [h]
  · exact .of_unchanged rfl rfl
  · obtain ⟨c, t, -, h⟩ | ⟨-, h⟩ | ⟨q, -, h⟩ :=
      afterWrite_cases op (sentState (frame s.addrMode s.devAddr op.body) s) <;> rw [h]
    · exact ⟨[.ok], rfl, .inr (List.mem_singleton_self _)⟩
    · exact ⟨[.ok], rfl, .inl rfl⟩
    · exact .of_unchanged rfl rfl
  · exact ⟨[.error .transport], rfl, .inl rfl⟩

theorem receive_writesOnlyWithOk (s : State) : WritesOnlyWithOk s (receive s) := by
  obtain ⟨-, -, -, -, -, hrf, -⟩ := receive_frame s
  obtain hres | ⟨-, r, hres⟩ := receive_results s
  · exact .of_unchanged hres hrf
  · exact ⟨[r], hres, .inl hrf⟩

theorem writesOnlyWithOk_kept : KeptByPhases WritesOnlyWithOk where
  refl _ := .of_unchanged rfl rfl
  trans _ _ _ := .trans
  endsAtOnce _ _ r _ := ⟨[r], rfl, .inl rfl⟩
  setsRange _ _ _ _ := ⟨[.ok], rfl, .inr (List.mem_singleton_self _)⟩
  begins _ _ := .of_unchanged rfl rfl
  transmits := transmit_writesOnlyWithOk
  receives := receive_writesOnlyWithOk
  requests _ _ := .of_unchanged rfl rfl
  closes _ := .of_unchanged rfl rfl

/-- Where the only new result is an error, the register file is as it was. -/
theorem WritesOnlyWithOk.rf_of_error {s t : State} {e : OpError} (h : WritesOnlyWithOk s t)
    (he : t.results = s.results ++ [.error e]) : t.rf = s.rf := by
  obtain ⟨new, hres, hrf | hok⟩ := h
  · exact hrf
  · obtain rfl := List.append_cancel_left (hres.symm.trans he)
    simp at hok

/-- A step without an owner's action adds no result, or ends an operation. -/
theorem step_results_or_idle {s t : State} (ho : s.owner = none) (h : step s = .next t) :
    t.results = s.results ∨ t.phase = .idle := by
  obtain ⟨args, hreset, -⟩ | ⟨hclose, -⟩ | ⟨-, -, rfl⟩ | ⟨-, p, i, -, -, hx⟩ := step_cases h
  · cases ho.symm.trans hreset
  · cases ho.symm.trans hclose
  · exact (receive_results s).imp_right And.left
  · have hconsume : s.consume.results = s.results := by obtain h' | h' := consume_eq s <;> rw [h']
    rw [← hconsume]
    exact (oneResultPerOperation i _ t hx).1.imp_right And.left

/-- Settles O48: no phase writes the configuration, none writes the register file without an OK, and a new result
leaves the sequencer idle. -/
theorem errorsLeaveTheRegisterFile : Obligations.ErrorsLeaveTheRegisterFile := by
  refine ⟨fun i s t e h he => ?_, fun s t e ho h he => ?_⟩
  · obtain ⟨hdev, hmode⟩ := sameConfiguration_kept.exec h
    obtain ⟨hsame | ⟨hidle, -⟩, -⟩ := oneResultPerOperation i s t h
    · exact absurd (he.symm.trans hsame) (by simp)
    · exact ⟨(writesOnlyWithOk_kept.exec h).rf_of_error he, hdev, hmode, hidle⟩
  · have hreset : ∀ args, s.owner ≠ some (.reset args) := by simp [ho]
    obtain ⟨hdev, hmode⟩ := sameConfiguration_kept.step h hreset
    obtain hsame | hidle := step_results_or_idle ho h
    · exact absurd (he.symm.trans hsame) (by simp)
    · exact ⟨(writesOnlyWithOk_kept.step h hreset).rf_of_error he, hdev, hmode, hidle⟩

end Sys2Proof.Machine
end

section
/-! PROOF. No instruction depends on earlier results: every change it makes to the state commutes with putting more
results before those the state has, so after any earlier results it adds what it adds to none. -/

namespace Sys2Proof.Machine

/-- The state with `earlier` before the results that it has. -/
def State.afterResults (earlier : List Result) (s : State) : State := { s with results := earlier ++ s.results }

theorem afterResults_of_none (earlier : List Result) (s : State) :
    { s with results := [] }.afterResults earlier = { s with results := earlier } := by
  simp [State.afterResults]

theorem arriving_afterResults (earlier : List Result) (s : State) :
    (s.afterResults earlier).arriving = s.arriving :=
  Option.ext fun _ => Iff.trans arriving_eq_some (arriving_eq_some (s := s)).symm

/-- A change of the state that does the same whatever results stand before its own. -/
def IgnoresEarlierResults (f : State → State) : Prop :=
  ∀ earlier, Function.Commute f (State.afterResults earlier)

/-! ## The parts of an operation -/

theorem finish_ignoresEarlier (r : Result) : IgnoresEarlierResults (finish r) := fun earlier s => by
  simp [finish, State.afterResults]

theorem afterWrite_ignoresEarlier (op : InFlight) : IgnoresEarlierResults (afterWrite op) := fun earlier s => by
  cases op with
  | setTarget c t => exact finish_ignoresEarlier .ok earlier (s.writeTarget c t)
  | setSpeed | setAccel | runScriptSubroutine | stopScript => exact finish_ignoresEarlier .ok earlier s
  | getPosition | isMoving | getMovingState => rfl

theorem transmit_ignoresEarlier : IgnoresEarlierResults transmit := fun earlier s => by
  by_cases htx : ∃ op, s.phase = .tx op
  · obtain ⟨op, hp⟩ := htx
    cases ha : s.writeAnswer with
    | none =>
      rw [transmit_waiting ha]
      exact transmit_waiting ha
    | some a =>
      cases a with
      | ok =>
        rw [transmit_ok hp ha]
        exact Eq.trans (transmit_ok hp ha) (afterWrite_ignoresEarlier op earlier (sentState _ s))
      | ioFail n =>
        rw [transmit_ioFail hp ha]
        exact Eq.trans (transmit_ioFail hp ha) (finish_ignoresEarlier _ earlier (sentState _ s))
  · have hno := not_exists.1 htx
    rw [transmit_other hno]
    exact transmit_other hno

theorem receive_ignoresEarlier : IgnoresEarlierResults receive := fun earlier s => by
  by_cases hrx : ∃ q, s.phase = .rx q
  · obtain ⟨q, hp⟩ := hrx
    cases ha : s.readAnswer with
    | none =>
      rw [receive_waiting ha]
      exact receive_waiting ha
    | some a =>
      cases a with
      | ok =>
        by_cases hn : q.size ≤ s.transport.rxStream.length
        · rw [receive_ok hp ha hn]
          exact Eq.trans (receive_ok hp ha hn) (finish_ignoresEarlier _ earlier (takenState _ s))
        · have hfew := Nat.lt_of_not_le hn
          rw [receive_tooFew hp ha hfew]
          exact receive_tooFew hp ha hfew
      | short k j =>
        rw [receive_short hp ha]
        exact Eq.trans (receive_short hp ha) (finish_ignoresEarlier _ earlier { takenState _ s with rxSync := false })
      | ioFail j =>
        rw [receive_ioFail hp ha]
        exact Eq.trans (receive_ioFail hp ha) (finish_ignoresEarlier _ earlier { takenState _ s with rxSync := false })
  · have hno := not_exists.1 hrx
    rw [receive_other hno]
    exact receive_other hno

theorem perform_ignoresEarlier (op : InFlight) : IgnoresEarlierResults (perform op) := fun earlier s =>
  calc
    receive (transmit ((begunState op s).afterResults earlier)) =
        receive ((transmit (begunState op s)).afterResults earlier) :=
      congrArg receive (transmit_ignoresEarlier earlier _)
    _ = (perform op s).afterResults earlier := receive_ignoresEarlier earlier _

/-! ## Accepting requests, and the levels below the port -/

theorem accept_ignoresEarlier {f : State → State} (hf : IgnoresEarlierResults f) :
    IgnoresEarlierResults (accept · f) := fun earlier s => by
  change accept (s.afterResults earlier) f = (accept s f).afterResults earlier
  by_cases hp : s.phase = .idle
  · rw [accept_idle hp]
    exact Eq.trans (accept_idle hp) (hf earlier s)
  · rw [accept_busy hp]
    exact accept_busy hp

theorem withChannel_ignoresEarlier {ch : Byte} {f : Fin NCH → State → State} (hf : ∀ c, IgnoresEarlierResults (f c)) :
    IgnoresEarlierResults (withChannel ch f) := fun earlier s => by
  obtain ⟨c, hc, -⟩ | ⟨hgt, -⟩ := checkChannel_cases ch
  · simpa only [withChannel_valid hc] using hf c earlier s
  · simpa only [withChannel_invalid hgt] using finish_ignoresEarlier _ earlier s

theorem isMoving_ignoresEarlier (c : Fin NCH) :
    IgnoresEarlierResults fun s =>
      if (s.entry c).target = 0 then finish (.bool false) s else perform (.isMoving c (s.entry c).target) s :=
  fun earlier s => by
  have hentry : (s.afterResults earlier).entry c = s.entry c := rfl
  simp only [hentry]
  split
  · exact finish_ignoresEarlier _ earlier s
  · exact perform_ignoresEarlier _ earlier s

theorem sendBody_ignoresEarlier (body : List Byte) : IgnoresEarlierResults (sendBody body) := fun earlier s => by
  by_cases h : ∃ op, s.phase = .tx op ∧ op.body = body
  · obtain ⟨op, hp, hb⟩ := h
    rw [sendBody_inFlight hp hb]
    exact Eq.trans (sendBody_inFlight hp hb) (transmit_ignoresEarlier earlier s)
  · have hother : ∀ op, s.phase = .tx op → op.body ≠ body := fun op hp hb => h ⟨op, hp, hb⟩
    rw [sendBody_other hother]
    exact sendBody_other hother

theorem takeResponse_ignoresEarlier (bytes : List Byte) : IgnoresEarlierResults (takeResponse bytes) :=
  fun earlier s => by
  simp only [takeResponse, arriving_afterResults]
  split
  · exact receive_ignoresEarlier earlier s
  · rfl

/-! ## Instructions -/

/-- Every instruction is a change of the state that ignores earlier results. -/
theorem exec_ignoresEarlier (i : Instr) : ∃ f, IgnoresEarlierResults f ∧ ∀ s, exec i s = .next (f s) := by
  cases he : encode i with
  | body bytes => exact ⟨_, sendBody_ignoresEarlier bytes, fun s => exec_body s he⟩
  | response bytes => exact ⟨_, takeResponse_ignoresEarlier bytes, fun s => exec_response s he⟩
  | request r =>
    cases i with
    | setRange ch mn mx =>
      exact ⟨_, accept_ignoresEarlier (withChannel_ignoresEarlier fun c earlier s =>
        finish_ignoresEarlier .ok earlier (s.writeLimits c mn mx)), fun _ => rfl⟩
    | setTarget ch v =>
      exact ⟨_, accept_ignoresEarlier (withChannel_ignoresEarlier fun c earlier s =>
        perform_ignoresEarlier (.setTarget c (s.clampedTarget c v)) earlier s), fun _ => rfl⟩
    | setSpeed | setAccel | getPosition =>
      exact ⟨_, accept_ignoresEarlier (withChannel_ignoresEarlier fun c => perform_ignoresEarlier _), fun _ => rfl⟩
    | isMoving => exact ⟨_, accept_ignoresEarlier (withChannel_ignoresEarlier isMoving_ignoresEarlier), fun _ => rfl⟩
    | getMovingState | runScriptSubroutine | stopScript =>
      exact ⟨_, accept_ignoresEarlier (perform_ignoresEarlier _), fun _ => rfl⟩
    | reserved9 | reservedA | reservedB | reservedC | reservedD | reservedE | reservedF =>
      exact ⟨_, accept_ignoresEarlier (finish_ignoresEarlier (.error (.illegalOperation _))), fun _ => rfl⟩
    | _ => cases he

/-- Settles O52: what the instruction adds is what it adds where there are no earlier results. -/
theorem earlierResultsDoNotMatter : Obligations.EarlierResultsDoNotMatter := by
  intro i s earlier
  obtain ⟨f, hf, hexec⟩ := exec_ignoresEarlier i
  have hafter : ∀ rs, f { s with results := rs } = (f { s with results := [] }).afterResults rs := fun rs =>
    (congrArg f (afterResults_of_none rs s)).symm.trans (hf rs _)
  have hs : f s = (f { s with results := [] }).afterResults s.results := hafter s.results
  refine ⟨f s, (f { s with results := [] }).results, hexec s, congrArg State.results hs, (hexec _).trans ?_⟩
  rw [hafter earlier, hs]
  rfl

end Sys2Proof.Machine
end

section
/-! PROOF. The owner's reset and close: what a reset leaves to the host, and how a closed Transport ends each phase at
once in `TransportError`. -/

namespace Sys2Proof.Machine

/-! ## The closed Transport -/

/-- The TX phase before a closed Transport puts nothing on the wire. -/
theorem transmit_closed {s : State} {op : InFlight} (hp : s.phase = .tx op) (hc : s.transport.closed = true) :
    transmit s = finish (.error .transport) (sentState [] s) :=
  transmit_ioFail hp (writeAnswer_closed hc)

/-- The RX phase before a closed Transport takes nothing from the stream. -/
theorem receive_closed {s : State} {q : Query} (hp : s.phase = .rx q) (hc : s.transport.closed = true) :
    receive s = finish (.error .transport) { takenState 0 s with rxSync := false } :=
  receive_ioFail hp (readAnswer_closed hc)

/-- An operation that sends a frame ends in the TX phase before a closed Transport. -/
theorem perform_closed (op : InFlight) {s : State} (hc : s.transport.closed = true) :
    perform op s = finish (.error .transport) (sentState [] (begunState op s)) := by
  rw [perform_eq, transmit_closed (begunState_phase op s) hc, receive_other (by simp)]

theorem sentState_nil_txTrace (s : State) : (sentState [] s).txTrace = s.txTrace := List.append_nil _

/-! ## The obligations -/

/-- Settles O35: each phase meets the closed Transport's failure and ends there. -/
theorem closingEndsTheOperationInFlight : Obligations.ClosingEndsTheOperationInFlight := by
  refine ⟨fun s => step_close, fun s op ho hc hp => ?_, fun s q ho hc hp => ?_, fun i s op hp hst hc => ?_⟩
  · rw [step_tx ho hp, transmit_closed hp hc]
    exact ⟨_, rfl, rfl, rfl, sentState_nil_txTrace s, rfl, rfl⟩
  · rw [step_rx ho hp, receive_closed hp hc]
    exact ⟨_, rfl, rfl, rfl, rfl, rfl, rfl, rfl⟩
  · rw [exec_of_starts hp hst, perform_closed op hc]
    exact ⟨_, rfl, rfl, rfl, sentState_nil_txTrace (begunState op s), rfl, rfl⟩

/-- Settles O33: a reset is construction from the Transport and the requests at hand, and only from IDLE. -/
theorem resetIsForIdleAndLeavesTheHostAlone : Obligations.ResetIsForIdleAndLeavesTheHostAlone :=
  ⟨fun _ _ => step_reset_busy, fun _ _ ho hp =>
    ⟨_, step_reset ho hp, fun ht => by simp [ht], fun _ ht => by simp [ht], rfl, rfl, rfl⟩⟩

end Sys2Proof.Machine
end

section
/-! PROOF. The commands without response do not depend on the receive side: each sends a frame and reads nothing, or
names a channel that does not exist, or is `setRange`, and each of the three commutes with exchanging the bytes and
answers that wait to be read. -/

namespace Sys2Proof.Machine

/-- The state with other bytes and answers waiting on the receive side. -/
def State.withReceiveSide (rx : List Byte) (rs : List ReadAnswer) (s : State) : State :=
  { s with transport := { s.transport with rxStream := rx, readAnswers := rs } }

section
variable (rx : List Byte) (rs : List ReadAnswer) {i : Instr} {s t : State}

/-! ## The TX phase -/

theorem afterWrite_withReceiveSide (op : InFlight) (s : State) :
    afterWrite op (s.withReceiveSide rx rs) = (afterWrite op s).withReceiveSide rx rs := by
  cases op <;> rfl

/-- A write reads the Transport's answers to writes alone. -/
theorem transmit_withReceiveSide {op : InFlight} (hp : s.phase = .tx op) :
    transmit (s.withReceiveSide rx rs) = (transmit s).withReceiveSide rx rs := by
  cases ha : s.writeAnswer with
  | none =>
    rw [transmit_waiting ha]
    exact transmit_waiting ha
  | some a =>
    cases a with
    | ok =>
      rw [transmit_ok hp ha]
      exact Eq.trans (transmit_ok hp ha) (afterWrite_withReceiveSide rx rs op (sentState _ s))
    | ioFail n =>
      rw [transmit_ioFail hp ha]
      exact transmit_ioFail hp ha

/-! ## Commands -/

theorem starts_withReceiveSide (i : Instr) (s : State) : starts i (s.withReceiveSide rx rs) = starts i s := by
  cases i <;> rfl

/-- A channel operation that sends a frame and reads nothing starts it, or its channel does not exist. -/
theorem starts_or_invalidChannel {ch : Byte} {mk : Fin NCH → InFlight} (hi : channelOperand i = some ch)
    (hst : starts i s = (checkChannel ch).map mk) (hq : ∀ c, (mk c).query? = none) :
    (∃ op, starts i s = some op ∧ op.query? = none) ∨ (∃ ch, channelOperand i = some ch ∧ 23 < ch.toNat) := by
  obtain ⟨c, -, hc⟩ | ⟨hgt, -⟩ := checkChannel_cases ch
  · exact .inl ⟨mk c, by rw [hst, hc]; rfl, hq c⟩
  · exact .inr ⟨ch, hi, hgt⟩

/-- All a command without response can be: one that sends a frame and reads nothing, one whose channel does not exist,
or `setRange` of a channel that does. -/
theorem command_cases (ch n : Byte) (a b : U16) (s : State) :
    ∀ i ∈ [Instr.setRange ch a b, .setTarget ch a, .setSpeed ch a, .setAccel ch a, .runScriptSubroutine n, .stopScript],
      (∃ op, starts i s = some op ∧ op.query? = none) ∨
      (∃ ch, channelOperand i = some ch ∧ 23 < ch.toNat) ∨
      (∃ c mn mx, i = .setRange (channelByte c) mn mx) := by
  simp only [List.forall_mem_cons, List.not_mem_nil, false_imp_iff, implies_true, and_true]
  refine ⟨?setRange, (starts_or_invalidChannel rfl rfl fun _ => rfl).imp_right .inl,
    (starts_or_invalidChannel rfl rfl fun _ => rfl).imp_right .inl,
    (starts_or_invalidChannel rfl rfl fun _ => rfl).imp_right .inl, .inl ⟨_, rfl, rfl⟩, .inl ⟨_, rfl, rfl⟩⟩
  obtain ⟨c, hc, -⟩ | ⟨hgt, -⟩ := checkChannel_cases ch
  · exact .inr (.inr ⟨c, a, b, by rw [channelByte_eq_iff.2 hc]⟩)
  · exact .inr (.inl ⟨ch, rfl, hgt⟩)

/-- An operation that reads no response answers the same whatever waits on the receive side. -/
theorem exec_withReceiveSide_of_starts {op : InFlight} (hp : s.phase = .idle) (hst : starts i s = some op)
    (hq : op.query? = none) (h : exec i s = .next t) :
    exec i (s.withReceiveSide rx rs) = .next (t.withReceiveSide rx rs) := by
  obtain rfl := Host.Outcome.next.inj ((exec_of_starts hp hst).symm.trans h)
  rw [exec_of_starts (s := s.withReceiveSide rx rs) hp ((starts_withReceiveSide rx rs i s).trans hst),
    perform_of_no_query hq, perform_of_no_query hq, ← transmit_withReceiveSide rx rs (begunState_phase op s)]
  rfl

theorem exec_withReceiveSide_of_invalidChannel {ch : Byte} (hp : s.phase = .idle) (hi : channelOperand i = some ch)
    (hgt : 23 < ch.toNat) (h : exec i s = .next t) :
    exec i (s.withReceiveSide rx rs) = .next (t.withReceiveSide rx rs) := by
  obtain rfl := Host.Outcome.next.inj ((exec_invalidChannel hi hp hgt).symm.trans h)
  exact exec_invalidChannel hi hp hgt

theorem exec_setRange_withReceiveSide {c : Fin NCH} {mn mx : U16} (hp : s.phase = .idle)
    (h : exec (.setRange (channelByte c) mn mx) s = .next t) :
    exec (.setRange (channelByte c) mn mx) (s.withReceiveSide rx rs) = .next (t.withReceiveSide rx rs) := by
  have hset := fun u hu => (setRangeStoresBothLimits (channelByte c) mn mx u hu).1 c (channelByte_toNat c)
  obtain rfl := Host.Outcome.next.inj ((hset s hp).symm.trans h)
  exact hset (s.withReceiveSide rx rs) hp

end

/-- What does the same whatever waits on the receive side leaves what does wait there as it is. -/
theorem receiveSide_of_withReceiveSide {i : Instr} {s t : State} (h : exec i s = .next t)
    (hsame : ∀ rx rs, exec i (s.withReceiveSide rx rs) = .next (t.withReceiveSide rx rs)) :
    t.transport.rxStream = s.transport.rxStream ∧ t.transport.readAnswers = s.transport.readAnswers := by
  have ht : t = t.withReceiveSide s.transport.rxStream s.transport.readAnswers :=
    Host.Outcome.next.inj (h.symm.trans (hsame _ _))
  exact ⟨congrArg (·.transport.rxStream) ht, congrArg (·.transport.readAnswers) ht⟩

/-- Settles O53, from the three things that a command without response can be. -/
theorem commandsIgnoreTheResponseStream : Obligations.CommandsIgnoreTheResponseStream := by
  intro ch n a b s rx rs i hmem hp
  obtain ⟨t, h⟩ := exec_total i s
  have hsame : ∀ rx rs, exec i (s.withReceiveSide rx rs) = .next (t.withReceiveSide rx rs) := by
    intro rx rs
    obtain ⟨op, hst, hq⟩ | ⟨ch', hi, hgt⟩ | ⟨c, mn, mx, rfl⟩ := command_cases ch n a b s i hmem
    · exact exec_withReceiveSide_of_starts rx rs hp hst hq h
    · exact exec_withReceiveSide_of_invalidChannel rx rs hp hi hgt h
    · exact exec_setRange_withReceiveSide rx rs hp h
  obtain ⟨hrx, hreads⟩ := receiveSide_of_withReceiveSide h hsame
  exact ⟨t, h, hrx, hreads, hsame rx rs⟩

end Sys2Proof.Machine
end
